-- ==== Sys2Proof/Word.lean ====
section
/-! DEFINITION. The word types of the block: bytes of the serial line (spec/00_scope.md R12, R14) and the 32-bit
timestamps and transaction words (R8, spec/30_encoding.md R110). -/

namespace Sys2Proof

/-- A byte of the serial line, of a frame field or of a queue parameter (R12, R14). -/
abbrev Byte := BitVec 8

/-- A 32-bit timestamp in milliseconds (R8) or the `op` word of a transaction (R110). -/
abbrev Word32 := BitVec 32

end Sys2Proof
end

