-- ==== Sys2Proof/Config.lean ====
section
/-! DEFINITION. The constants and implementation parameters of spec/00_scope.md R9, and the free values the spec
leaves unspecified. R9: "A model takes every OPEN one as an argument". The parameters are therefore plain data
(`Params`), which the machine's state carries and no step writes (log entry 1). -/

namespace Sys2Proof.Config

/-- `P_SYNC`, the sync byte (R9: fixed). -/
def pSync : Byte := 0x80#8

/-- `P_NSLOTS`, the number of measurement slots (R9: fixed). -/
def pNSlots : Nat := 9

/-- `P_TIMEOUT_MS`, the reply timeout in milliseconds (R9: fixed). -/
def pTimeoutMs : Nat := 2000

/-- `P_RATE`, the period of the SYNC_ERR rate limit (R9: fixed). -/
def pRate : Nat := 100

/-- `P_SENTINEL`, the exponent byte that stands for the slot's baseline exponent (R9: fixed). -/
def pSentinel : Byte := 11#8

/-- `P_EXP_MIN` (R9: fixed). -/
def pExpMin : Int := -3

/-- `P_EXP_MAX` (R9: fixed). -/
def pExpMax : Int := 10

/-- The byte `fa_buf[i]` right after a RESET transaction with the given operands: spec/10_state.md R50 leaves it
unspecified (spec/93 U1). A free value: it has no body, so nothing can be proved of it. It depends on the RESET
operands only, because R360 says that nothing else survives a RESET. (log entry 3) -/
opaque faBufAfterReset (now : Word32) (invCount : Byte) (autoAef : Bool) (debug : BitVec 2) (i : Nat) : Byte

/-- The 20 raw bits of the entry `q_ent[i]` right after a RESET transaction: unspecified by spec/10_state.md R50
(spec/93 U2), so a free value, as `faBufAfterReset`. (log entry 3) -/
opaque qEntAfterReset (now : Word32) (invCount : Byte) (autoAef : Bool) (debug : BitVec 2) (i : Nat) : BitVec 20

end Sys2Proof.Config

namespace Sys2Proof

/-- The synthesis parameters of spec/00_scope.md R9, with the command codes of spec/30_encoding.md R104 and the
device byte of R105. A default is the rule's default; a field without one is OPEN. The defaults of `cmdGdt`,
`cmdGai`, `cmdValBase`, `cmdPerr`, `cmdEstate` and `devInv` are general knowledge by the spec's own words
(PRESUMED, log entry 13). -/
structure Params where
  /-- `P_MAX_INV` (OPEN). -/
  maxInv : Nat
  /-- `P_BUF_SIZE`. -/
  bufSize : Nat := maxInv + 8
  /-- `P_QCAP`. -/
  qCap : Nat := 10
  /-- `P_NODATA_MS`. -/
  noDataMs : Nat := 60000
  /-- `BASE_EXP[0..8]` (OPEN). -/
  baseExp : List Int
  /-- `GLITCH_ADDR` (OPEN). -/
  glitchAddr : Byte
  /-- `CMD_GV`. -/
  cmdGv : Byte := 0x01#8
  /-- `CMD_GDT`. -/
  cmdGdt : Byte := 0x02#8
  /-- `CMD_GAI`. -/
  cmdGai : Byte := 0x04#8
  /-- `CMD_VAL_BASE`. -/
  cmdValBase : Byte := 0x10#8
  /-- `CMD_AEF` (OPEN, no default). -/
  cmdAef : Byte
  /-- `CMD_PERR`. -/
  cmdPerr : Byte := 0x0E#8
  /-- `CMD_ESTATE`. -/
  cmdEstate : Byte := 0x0F#8
  /-- `DEV_INV` (R105). -/
  devInv : Byte := 0x01#8
  /-- `AEF_P1_SINGLE` (OPEN). -/
  aefP1Single : Byte
  /-- `AEF_P2_DEFAULT` (OPEN). -/
  aefP2Default : Byte
  deriving DecidableEq, Repr

/-- `CMD_VAL_BASE + k`, the CMD byte of the GetValues request for slot `k` (R104). -/
def Params.cmdVal (p : Params) (k : Nat) : Byte := p.cmdValBase + BitVec.ofNat 8 k

/-- The 15 command codes that R104 requires to be pairwise distinct. -/
def Params.codes (p : Params) : List Byte :=
  [p.cmdGv, p.cmdGdt, p.cmdGai, p.cmdVal 0, p.cmdVal 1, p.cmdVal 2, p.cmdVal 3, p.cmdVal 4, p.cmdVal 5,
    p.cmdVal 6, p.cmdVal 7, p.cmdVal 8, p.cmdAef, p.cmdPerr, p.cmdEstate]

/-- The constraints of R9 and R104 on the parameters. -/
abbrev Params.Wf (p : Params) : Prop :=
  4 ≤ p.maxInv ∧ p.maxInv ≤ 255 ∧ 8 ≤ p.bufSize ∧ 1 ≤ p.qCap ∧ 1 ≤ p.noDataMs ∧ p.baseExp.length = Config.pNSlots ∧
    (∀ e ∈ p.baseExp, Config.pExpMin ≤ e ∧ e ≤ Config.pExpMax) ∧ p.codes.Nodup ∧ p.cmdValBase.toNat + 8 ≤ 0xFF

/-- The test binding of spec/95_test_vectors.md: the one value for every OPEN parameter that a file of the spec
writes down, and the defaults of R9 and R104 for the others. `State.reset` and `decodeTableWord` use it.
DESIGN CHOICE (log entry 1): any well-formed parameters are a legal block. -/
def Config.testBinding : Params where
  maxInv := 8
  baseExp := [0, 0, 0, 0, -2, -1, -2, -2, -1]
  glitchAddr := 0xFF#8
  cmdAef := 0xA5#8
  aefP1Single := 0x01#8
  aefP2Default := 0x00#8

end Sys2Proof
end

