-- ==== Sys2Proof/Syntax.lean ====
section
/-! DEFINITION. The instructions: one constructor per row of spec/opcode_table.json. Ten transactions (spec/30_encoding.md
R111, R112), thirteen outbound requests (spec/43_command_sequencer.md R230 to R242) and fifteen inbound frame classes
(R250 to R258, R280 to R288). -/

namespace Sys2Proof

/-- One constructor per row of spec/opcode_table.json. The operands of a transaction are the fields of R112. Those of an
outbound request are the frame bytes its rule does not fix. Those of an inbound frame are DEV, NUM and the payload
(whose length is LEN); its CMD byte is the class. -/
inductive Instr where
  /-- RESET (R360). -/
  | reset (invCount : Byte) (autoAef : Bool) (debug : BitVec 2)
  /-- RX_BYTE (R140). -/
  | rxByte (b : Byte)
  /-- RX_IDLE (R150). -/
  | rxIdle
  /-- TICK (R220). -/
  | tick (dom : BitVec 5)
  /-- ENQ GV (R300). -/
  | enqGv
  /-- ENQ GDT (R300). -/
  | enqGdt
  /-- ENQ GAI (R300). -/
  | enqGai
  /-- ENQ AEF with its optional parameters (R300). -/
  | enqAef (p1 p2 : Option Byte)
  /-- SET_DEBUG (R309). -/
  | setDebug (level : BitVec 2)
  /-- LINE_OPEN (R154). -/
  | lineOpen
  /-- TX_GETVERSION (R230). -/
  | txGetversion
  /-- TX_GETDEVTYPE to the address `n` (R231). -/
  | txGetdevtype (n : Byte)
  /-- TX_GETACTIVE (R232). -/
  | txGetactive
  /-- TX_GETVAL_0 (PWR) to the address `n` (R233). -/
  | txGetval0 (n : Byte)
  /-- TX_GETVAL_1 (E_TOT) (R234). -/
  | txGetval1 (n : Byte)
  /-- TX_GETVAL_2 (E_DAY) (R235). -/
  | txGetval2 (n : Byte)
  /-- TX_GETVAL_3 (E_YEAR) (R236). -/
  | txGetval3 (n : Byte)
  /-- TX_GETVAL_4 (IAC) (R237). -/
  | txGetval4 (n : Byte)
  /-- TX_GETVAL_5 (VAC) (R238). -/
  | txGetval5 (n : Byte)
  /-- TX_GETVAL_6 (FAC) (R239). -/
  | txGetval6 (n : Byte)
  /-- TX_GETVAL_7 (IDC) (R240). -/
  | txGetval7 (n : Byte)
  /-- TX_GETVAL_8 (VDC) (R241). -/
  | txGetval8 (n : Byte)
  /-- TX_AEF with its two payload bytes (R242). -/
  | txAef (p1 p2 : Byte)
  /-- RX_VERSION: a validated frame with CMD = `CMD_GV` (R254). -/
  | rxVersion (dev num : Byte) (pl : List Byte)
  /-- RX_DEVTYPE: CMD = `CMD_GDT` (R255). -/
  | rxDevtype (dev num : Byte) (pl : List Byte)
  /-- RX_ACTIVE: CMD = `CMD_GAI` (R256). -/
  | rxActive (dev num : Byte) (pl : List Byte)
  /-- RX_VAL_0 (PWR): CMD = `CMD_VAL_BASE` (R280). -/
  | rxVal0 (dev num : Byte) (pl : List Byte)
  /-- RX_VAL_1 (E_TOT) (R281). -/
  | rxVal1 (dev num : Byte) (pl : List Byte)
  /-- RX_VAL_2 (E_DAY) (R282). -/
  | rxVal2 (dev num : Byte) (pl : List Byte)
  /-- RX_VAL_3 (E_YEAR) (R283). -/
  | rxVal3 (dev num : Byte) (pl : List Byte)
  /-- RX_VAL_4 (IAC) (R284). -/
  | rxVal4 (dev num : Byte) (pl : List Byte)
  /-- RX_VAL_5 (VAC) (R285). -/
  | rxVal5 (dev num : Byte) (pl : List Byte)
  /-- RX_VAL_6 (FAC) (R286). -/
  | rxVal6 (dev num : Byte) (pl : List Byte)
  /-- RX_VAL_7 (IDC) (R287). -/
  | rxVal7 (dev num : Byte) (pl : List Byte)
  /-- RX_VAL_8 (VDC) (R288). -/
  | rxVal8 (dev num : Byte) (pl : List Byte)
  /-- RX_AEF: CMD = `CMD_AEF` (R258). -/
  | rxAef (dev num : Byte) (pl : List Byte)
  /-- RX_PROTOCOL_ERROR: CMD = `CMD_PERR` (R251). -/
  | rxProtocolError (dev num : Byte) (pl : List Byte)
  /-- RX_ERROR_STATE: CMD = `CMD_ESTATE` (R252). -/
  | rxErrorState (dev num : Byte) (pl : List Byte)
  deriving DecidableEq, Repr

end Sys2Proof
end

