-- ==== Sys2Proof/WellFormed.lean ====
section
/-! DEFINITION. Which instructions a correct host, the block itself or the serial line can produce: the field conditions
of spec/30_encoding.md R113 on the transactions, and the length bounds of the Frame Assembler (spec/40_frame_assembler.md
R143, R144) on the inbound frames. A Bool, so that a term can be judged by evaluation. -/

namespace Sys2Proof.WellFormed

/-- R113: RESET has `invCount` from 1 to `P_MAX_INV` and `debug` other than 3. -/
def resetFields (p : Params) (invCount : Byte) (debug : BitVec 2) : Bool :=
  decide (1 ≤ invCount.toNat) && decide (invCount.toNat ≤ p.maxInv) && decide (debug ≠ 3#2)

/-- R113: TICK has `dom` from 1 to 31. -/
def tickFields (dom : BitVec 5) : Bool := decide (dom ≠ 0#5)

/-- R113: ENQ AEF has `p2` valid only with `p1` valid. -/
def enqAefFields (p1 p2 : Option Byte) : Bool := p1.isSome || p2.isNone

/-- R113: SET_DEBUG has `level` other than 3. -/
def setDebugFields (level : BitVec 2) : Bool := decide (level ≠ 3#2)

/-- A payload the Frame Assembler can validate: LEN at most `P_MAX_INV` (R143, R109) and LEN + 8 bytes at most
`P_BUF_SIZE` (R144). -/
def inboundPayload (p : Params) (pl : List Byte) : Bool :=
  decide (pl.length ≤ p.maxInv) && decide (pl.length + 8 ≤ p.bufSize)

end Sys2Proof.WellFormed

namespace Sys2Proof

/-- The well-formed instructions of a block with the parameters `p`. -/
def wellFormed (p : Params) : Instr → Bool
  | .reset invCount _ debug => WellFormed.resetFields p invCount debug
  | .rxByte _ => true
  | .rxIdle => true
  | .tick dom => WellFormed.tickFields dom
  | .enqGv => true
  | .enqGdt => true
  | .enqGai => true
  | .enqAef p1 p2 => WellFormed.enqAefFields p1 p2
  | .setDebug level => WellFormed.setDebugFields level
  | .lineOpen => true
  | .txGetversion => true
  | .txGetdevtype _ => true
  | .txGetactive => true
  | .txGetval0 _ => true
  | .txGetval1 _ => true
  | .txGetval2 _ => true
  | .txGetval3 _ => true
  | .txGetval4 _ => true
  | .txGetval5 _ => true
  | .txGetval6 _ => true
  | .txGetval7 _ => true
  | .txGetval8 _ => true
  | .txAef _ _ => true
  | .rxVersion _ _ pl => WellFormed.inboundPayload p pl
  | .rxDevtype _ _ pl => WellFormed.inboundPayload p pl
  | .rxActive _ _ pl => WellFormed.inboundPayload p pl
  | .rxVal0 _ _ pl => WellFormed.inboundPayload p pl
  | .rxVal1 _ _ pl => WellFormed.inboundPayload p pl
  | .rxVal2 _ _ pl => WellFormed.inboundPayload p pl
  | .rxVal3 _ _ pl => WellFormed.inboundPayload p pl
  | .rxVal4 _ _ pl => WellFormed.inboundPayload p pl
  | .rxVal5 _ _ pl => WellFormed.inboundPayload p pl
  | .rxVal6 _ _ pl => WellFormed.inboundPayload p pl
  | .rxVal7 _ _ pl => WellFormed.inboundPayload p pl
  | .rxVal8 _ _ pl => WellFormed.inboundPayload p pl
  | .rxAef _ _ pl => WellFormed.inboundPayload p pl
  | .rxProtocolError _ _ pl => WellFormed.inboundPayload p pl
  | .rxErrorState _ _ pl => WellFormed.inboundPayload p pl

end Sys2Proof
end

