-- ==== Sys2Proof/Decode.lean ====
section
/-! DEFINITION. The three encoded surfaces of the block (spec/30_encoding.md): the transaction word (R110 to R113) and the
wire frame outbound and inbound (R100 to R108). First the decoders, total and rejecting by name; then the encoders,
written from the same tables; then the two readings of a row of spec/opcode_table.json. -/

namespace Sys2Proof

/-- Why some bits are no instruction. Rejecting is what the spec asks (R113) for the words, and safe. -/
inductive DecodeError where
  /-- TAG 0x7 to 0xF (R111, R113). -/
  | reservedTag
  /-- A bit that R112 does not list is 1 (R113). -/
  | strayBits
  /-- ENQ with a valid parameter and a kind other than AEF (R113). -/
  | enqParamOnKind
  /-- ENQ with an invalid parameter whose data bits are not 0 (R113). -/
  | enqParamData
  /-- Fewer than the eight bytes of the shortest frame (R100). -/
  | truncated
  /-- One of the three sync bytes is not 0x80 (R100). -/
  | badSync
  /-- The number of bytes is not LEN + 8 (R100, R107). -/
  | wrongLength
  /-- The last byte is not the checksum (R101). -/
  | badChecksum
  /-- An inbound LEN above `P_MAX_INV` (R109). -/
  | lenTooLarge
  /-- An inbound frame longer than `P_BUF_SIZE` (R144). -/
  | frameTooLong
  /-- A valid inbound frame whose CMD is in no row of the table: an unexpected packet (R108). -/
  | unknownCmd
  /-- A valid frame that is none of the requests R230 to R242. -/
  | notARequest
  deriving DecidableEq, Repr

/-- An encoded instruction on the surface it uses: the transaction word of the input port, an outbound frame, or an
inbound frame. -/
inductive Code where
  /-- A transaction word (R110). -/
  | word (w : Word32)
  /-- The bytes of an outbound frame, offset 0 first (R81). -/
  | outbound (bytes : List Byte)
  /-- The bytes of an inbound frame, offset 0 first. -/
  | inbound (bytes : List Byte)
  deriving DecidableEq, Repr

/-! ## The transaction word -/

/-- The field `w[lo + n - 1 : lo]` (R12). -/
def field (w : Word32) (lo n : Nat) : BitVec n := w.extractLsb' lo n

/-- ENQ (R112): bits 31:24 are unlisted; `kind` is `w[5:4]`; only AEF takes parameters (R113). -/
def decodeEnq (w : Word32) : Except DecodeError Instr :=
  if field w 24 8 ≠ 0#8 then .error .strayBits
  else if w.getLsbD 6 = false ∧ field w 8 8 ≠ 0#8 then .error .enqParamData
  else if w.getLsbD 7 = false ∧ field w 16 8 ≠ 0#8 then .error .enqParamData
  else if field w 4 2 = 3#2 then
    .ok (.enqAef (if w.getLsbD 6 then some (field w 8 8) else none) (if w.getLsbD 7 then some (field w 16 8) else none))
  else if w.getLsbD 6 || w.getLsbD 7 then .error .enqParamOnKind
  else if field w 4 2 = 0#2 then .ok .enqGv
  else if field w 4 2 = 1#2 then .ok .enqGdt
  else .ok .enqGai

/-- The transaction a word stands for (R111, R112). The conditions of R113 on the encoding alone reject here; those on
the operands are judged when the transaction runs, since one of them depends on `P_MAX_INV`. -/
def decodeTxn (w : Word32) : Except DecodeError Instr :=
  match (field w 0 4).toNat with
  | 0 =>
    if field w 15 17 ≠ 0#17 then .error .strayBits
    else .ok (.reset (field w 4 8) (w.getLsbD 12) (field w 13 2))
  | 1 => if field w 12 20 ≠ 0#20 then .error .strayBits else .ok (.rxByte (field w 4 8))
  | 2 => if field w 4 28 ≠ 0#28 then .error .strayBits else .ok .rxIdle
  | 3 => if field w 9 23 ≠ 0#23 then .error .strayBits else .ok (.tick (field w 4 5))
  | 4 => decodeEnq w
  | 5 => if field w 6 26 ≠ 0#26 then .error .strayBits else .ok (.setDebug (field w 4 2))
  | 6 => if field w 4 28 ≠ 0#28 then .error .strayBits else .ok .lineOpen
  | _ => .error .reservedTag

/-! ## The wire frame -/

/-- CHECKSUM of a frame: the low byte of the sum of the bytes at offsets 3 to LEN + 6 (R101). -/
def checksum (body : List Byte) : Byte := body.foldl (· + ·) 0#8

/-- The bytes at offsets 3 to LEN + 6: LEN, DEV, NUM, CMD and the payload (R100). -/
def frameBody (dev num cmd : Byte) (pl : List Byte) : List Byte :=
  BitVec.ofNat 8 pl.length :: dev :: num :: cmd :: pl

/-- `frame(dev, num, cmd, pl)`, the frame builder of R101. -/
def frame (dev num cmd : Byte) (pl : List Byte) : List Byte :=
  [Config.pSync, Config.pSync, Config.pSync] ++ frameBody dev num cmd pl ++ [checksum (frameBody dev num cmd pl)]

/-- The header fields and payload of a frame (R100). -/
structure FrameFields where
  /-- DEV, offset 4. -/
  dev : Byte
  /-- NUM, offset 5. -/
  num : Byte
  /-- CMD, offset 6. -/
  cmd : Byte
  /-- The payload, offsets 7 to LEN + 6. -/
  pl : List Byte
  deriving DecidableEq, Repr

/-- Reads one whole frame: sync, length and checksum as R100, R101 and R107 give them. -/
def parseFrame (bytes : List Byte) : Except DecodeError FrameFields :=
  match bytes with
  | s0 :: s1 :: s2 :: len :: dev :: num :: cmd :: rest =>
    if s0 ≠ Config.pSync ∨ s1 ≠ Config.pSync ∨ s2 ≠ Config.pSync then .error .badSync
    else if rest.length ≠ len.toNat + 1 then .error .wrongLength
    else if rest.drop len.toNat ≠ [checksum (len :: dev :: num :: cmd :: rest.take len.toNat)] then .error .badChecksum
    else .ok (FrameFields.mk dev num cmd (rest.take len.toNat))
  | _ => .error .truncated

/-- The slot `k` whose code `CMD_VAL_BASE + k` is `cmd`, if there is one (R104). -/
def valSlot (p : Params) (cmd : Byte) : Option Nat := (List.range Config.pNSlots).find? fun k => cmd == p.cmdVal k

/-- The request for slot `k` to the address `n` (R233 to R241). -/
def txGetvalInstr (k : Nat) (n : Byte) : Instr :=
  match k with
  | 0 => .txGetval0 n
  | 1 => .txGetval1 n
  | 2 => .txGetval2 n
  | 3 => .txGetval3 n
  | 4 => .txGetval4 n
  | 5 => .txGetval5 n
  | 6 => .txGetval6 n
  | 7 => .txGetval7 n
  | _ => .txGetval8 n

/-- The value reply of slot `k` (R280 to R288). -/
def rxValInstr (k : Nat) (dev num : Byte) (pl : List Byte) : Instr :=
  match k with
  | 0 => .rxVal0 dev num pl
  | 1 => .rxVal1 dev num pl
  | 2 => .rxVal2 dev num pl
  | 3 => .rxVal3 dev num pl
  | 4 => .rxVal4 dev num pl
  | 5 => .rxVal5 dev num pl
  | 6 => .rxVal6 dev num pl
  | 7 => .rxVal7 dev num pl
  | _ => .rxVal8 dev num pl

/-- The class of a validated inbound frame by its CMD byte (R104, R108: the two error responses first). DEV is never
examined. -/
def classifyInbound (p : Params) (f : FrameFields) : Except DecodeError Instr :=
  if f.cmd = p.cmdPerr then .ok (.rxProtocolError f.dev f.num f.pl)
  else if f.cmd = p.cmdEstate then .ok (.rxErrorState f.dev f.num f.pl)
  else if f.cmd = p.cmdGv then .ok (.rxVersion f.dev f.num f.pl)
  else if f.cmd = p.cmdGdt then .ok (.rxDevtype f.dev f.num f.pl)
  else if f.cmd = p.cmdGai then .ok (.rxActive f.dev f.num f.pl)
  else if f.cmd = p.cmdAef then .ok (.rxAef f.dev f.num f.pl)
  else
    match valSlot p f.cmd with
    | some k => .ok (rxValInstr k f.dev f.num f.pl)
    | none => .error .unknownCmd

/-- The instruction of an inbound frame's bytes: a frame the Frame Assembler validates (R143, R144, R146), then its
class. -/
def decodeInbound (p : Params) (bytes : List Byte) : Except DecodeError Instr :=
  match parseFrame bytes with
  | .error e => .error e
  | .ok f =>
    if p.maxInv < f.pl.length then .error .lenTooLarge
    else if p.bufSize < f.pl.length + 8 then .error .frameTooLong
    else classifyInbound p f

/-- The request that a frame's fields are (R230 to R242, with DEV and NUM of R105). -/
def classifyRequest (p : Params) (f : FrameFields) : Except DecodeError Instr :=
  match f.pl with
  | [] =>
    if f.dev = 0#8 ∧ f.num = 0#8 ∧ f.cmd = p.cmdGv then .ok .txGetversion
    else if f.dev = 0#8 ∧ f.num = 0#8 ∧ f.cmd = p.cmdGai then .ok .txGetactive
    else if f.dev = p.devInv ∧ f.cmd = p.cmdGdt then .ok (.txGetdevtype f.num)
    else
      match valSlot p f.cmd with
      | some k => if f.dev = p.devInv then .ok (txGetvalInstr k f.num) else .error .notARequest
      | none => .error .notARequest
  | [p1, p2] =>
    if f.dev = 0#8 ∧ f.num = 0#8 ∧ f.cmd = p.cmdAef then .ok (.txAef p1 p2) else .error .notARequest
  | _ => .error .notARequest

/-- The instruction of an outbound frame's bytes. -/
def decodeOutbound (p : Params) (bytes : List Byte) : Except DecodeError Instr :=
  match parseFrame bytes with
  | .error e => .error e
  | .ok f => classifyRequest p f

/-- The decoder, on whichever surface the code stands. -/
def decode (p : Params) : Code → Except DecodeError Instr
  | .word w => decodeTxn w
  | .outbound bytes => decodeOutbound p bytes
  | .inbound bytes => decodeInbound p bytes

/-! ## The encoder -/

/-- The word of ENQ (R112): kind in 5:4, the valid bits 6 and 7, the parameters in 15:8 and 23:16. -/
def enqWord (kind : BitVec 2) (p1 p2 : Option Byte) : Word32 :=
  0#8 ++ p2.getD 0#8 ++ p1.getD 0#8 ++ BitVec.ofBool p2.isSome ++ BitVec.ofBool p1.isSome ++ kind ++ 0x4#4

/-- The bytes of a request: `frame(DEV, NUM, CMD, payload)` of R230 to R242. -/
def getvalFrame (p : Params) (k : Nat) (n : Byte) : List Byte := frame p.devInv n (p.cmdVal k) []

/-- The code of an instruction, written from R100 to R105, R112 and R230 to R242. -/
def encode (p : Params) : Instr → Code
  | .reset invCount autoAef debug => .word (0#17 ++ debug ++ BitVec.ofBool autoAef ++ invCount ++ 0x0#4)
  | .rxByte b => .word (0#20 ++ b ++ 0x1#4)
  | .rxIdle => .word (0#28 ++ 0x2#4)
  | .tick dom => .word (0#23 ++ dom ++ 0x3#4)
  | .enqGv => .word (enqWord 0#2 none none)
  | .enqGdt => .word (enqWord 1#2 none none)
  | .enqGai => .word (enqWord 2#2 none none)
  | .enqAef p1 p2 => .word (enqWord 3#2 p1 p2)
  | .setDebug level => .word (0#26 ++ level ++ 0x5#4)
  | .lineOpen => .word (0#28 ++ 0x6#4)
  | .txGetversion => .outbound (frame 0#8 0#8 p.cmdGv [])
  | .txGetdevtype n => .outbound (frame p.devInv n p.cmdGdt [])
  | .txGetactive => .outbound (frame 0#8 0#8 p.cmdGai [])
  | .txGetval0 n => .outbound (getvalFrame p 0 n)
  | .txGetval1 n => .outbound (getvalFrame p 1 n)
  | .txGetval2 n => .outbound (getvalFrame p 2 n)
  | .txGetval3 n => .outbound (getvalFrame p 3 n)
  | .txGetval4 n => .outbound (getvalFrame p 4 n)
  | .txGetval5 n => .outbound (getvalFrame p 5 n)
  | .txGetval6 n => .outbound (getvalFrame p 6 n)
  | .txGetval7 n => .outbound (getvalFrame p 7 n)
  | .txGetval8 n => .outbound (getvalFrame p 8 n)
  | .txAef p1 p2 => .outbound (frame 0#8 0#8 p.cmdAef [p1, p2])
  | .rxVersion dev num pl => .inbound (frame dev num p.cmdGv pl)
  | .rxDevtype dev num pl => .inbound (frame dev num p.cmdGdt pl)
  | .rxActive dev num pl => .inbound (frame dev num p.cmdGai pl)
  | .rxVal0 dev num pl => .inbound (frame dev num (p.cmdVal 0) pl)
  | .rxVal1 dev num pl => .inbound (frame dev num (p.cmdVal 1) pl)
  | .rxVal2 dev num pl => .inbound (frame dev num (p.cmdVal 2) pl)
  | .rxVal3 dev num pl => .inbound (frame dev num (p.cmdVal 3) pl)
  | .rxVal4 dev num pl => .inbound (frame dev num (p.cmdVal 4) pl)
  | .rxVal5 dev num pl => .inbound (frame dev num (p.cmdVal 5) pl)
  | .rxVal6 dev num pl => .inbound (frame dev num (p.cmdVal 6) pl)
  | .rxVal7 dev num pl => .inbound (frame dev num (p.cmdVal 7) pl)
  | .rxVal8 dev num pl => .inbound (frame dev num (p.cmdVal 8) pl)
  | .rxAef dev num pl => .inbound (frame dev num p.cmdAef pl)
  | .rxProtocolError dev num pl => .inbound (frame dev num p.cmdPerr pl)
  | .rxErrorState dev num pl => .inbound (frame dev num p.cmdEstate pl)

/-- The word of a transaction (`0` for an instruction that is a frame). -/
def txnWord (i : Instr) : Word32 :=
  match encode Config.testBinding i with
  | .word w => w
  | _ => 0#32

/-! ## A row of spec/opcode_table.json -/

/-- The `n` bytes of a table number whose byte 0 is its most significant, as the table's frame rows number them. -/
def tableBytes (n w : Nat) : List Byte :=
  (List.range n).map fun i => BitVec.ofNat 8 (w >>> (8 * (n - 1 - i)))

/-- Completes the bytes of a frame row (the table gives bytes 0 to 6) to a whole frame: payload bytes that the number
does not give are 0, and the checksum, which is no operand, is the one R101 gives. (log entry 9) -/
def completeFrame (bytes : List Byte) : List Byte :=
  let len := (bytes.getD 3 0#8).toNat
  let body := bytes ++ List.replicate (len + 7 - bytes.length) 0#8
  if bytes.length < len + 8 then body ++ [checksum (body.drop 3)] else bytes

/-- The frame of a table row wider than a transaction word. -/
def tableFrame (nbits w : Nat) : List Byte := completeFrame (tableBytes (nbits / 8) w)

/-- The instruction this decoder reads from a row's bits, in the binding the table itself is written in. A row of at most
32 bits is a transaction word. A wider one is a frame; where the same bytes are a request and a reply, the request is
answered, since the direction is no part of the bits. DESIGN CHOICE (log entry 9). -/
def decodeTableWord (nbits w : Nat) : Option Instr :=
  if nbits ≤ 32 then
    if w < 2 ^ 32 then (decodeTxn (BitVec.ofNat 32 w)).toOption else none
  else
    match decodeOutbound Config.testBinding (tableFrame nbits w) with
    | .ok i => some i
    | .error _ => (decodeInbound Config.testBinding (tableFrame nbits w)).toOption

end Sys2Proof
end

