-- ==== Sys2Proof/Machine/State.lean ====
section
/-! DEFINITION. The state of the block as plain data: every field of spec/10_state.md R32 to R49, the parameters of
spec/00_scope.md R9, and the two ports of R55; the output records of R57 to R62; the reasons a step can stop; and the
state right after reset (R50). -/

namespace Sys2Proof.Machine

/-- The command kinds of the sequencer (spec/00_scope.md R16, spec/10_state.md R35). -/
inductive CmdKind where
  /-- GetVersion, 0. -/
  | gv
  /-- GetDeviceType, 1. -/
  | gdt
  /-- GetActiveInverters, 2. -/
  | gai
  /-- GetValues, 3. -/
  | gval
  /-- ActivateErrorForwarding, 4. -/
  | aef
  deriving DecidableEq, Repr

/-- The next idle sequence, `sq_idleNext` (R37). -/
inductive IdleKind where
  /-- 0: GetActiveInverters. -/
  | gai
  /-- 1: GetValues. -/
  | gval
  deriving DecidableEq, Repr

/-- The error-forwarding sub-state, `sq_aef` (R43). -/
inductive AefState where
  /-- 0: INIT. -/
  | init
  /-- 1: COMPLETE. -/
  | complete
  deriving DecidableEq, Repr

/-- The kind of a queue entry (R47). -/
inductive QKind where
  /-- 0. -/
  | gv
  /-- 1. -/
  | gdt
  /-- 2. -/
  | gai
  /-- 3. -/
  | aef
  deriving DecidableEq, Repr

/-- An entry of the Command Queue (R47). -/
structure QEntry where
  /-- The command. -/
  kind : QKind
  /-- The first optional parameter. -/
  p1 : Option Byte
  /-- The second optional parameter. -/
  p2 : Option Byte
  deriving DecidableEq, Repr

/-- The severity of a LOG record (R59, spec/60_exceptions.md R320). -/
inductive Severity where
  /-- 1. -/
  | info
  /-- 2. -/
  | warn
  /-- 3. -/
  | fatal
  deriving DecidableEq, Repr

/-- The events of spec/60_exceptions.md R320 with their fields, in the table's order. -/
inductive Event where
  /-- (count, byte, position). -/
  | syncErr (count : Word32) (byte : Byte) (position : Nat)
  /-- (len). -/
  | lenErr (len : Byte)
  /-- (computed, received). -/
  | csumErr (computed received : Byte)
  /-- (position). -/
  | overflow (position : Nat)
  /-- (). -/
  | zeroRead
  /-- (elapsed ms). -/
  | noData (elapsed : Word32)
  /-- (magnitude, exponent, index). -/
  | decUnderflow (magnitude : BitVec 16) (exponent : Int) (index : Nat)
  /-- (magnitude, exponent, index). -/
  | decOverflow (magnitude : BitVec 16) (exponent : Int) (index : Nat)
  /-- (addr, slot, cand, prev, cnt). -/
  | filtReject (addr : Byte) (slot : Nat) (cand prev : BitVec 64) (cnt : BitVec 2)
  /-- (addr, slot, cand, prev, cnt). -/
  | filtOverride (addr : Byte) (slot : Nat) (cand prev : BitVec 64) (cnt : BitVec 2)
  /-- (addr, slot, cand, prev, cnt). -/
  | filtShutdown (addr : Byte) (slot : Nat) (cand prev : BitVec 64) (cnt : BitVec 2)
  /-- (addr, slot, cand, prev, cnt). -/
  | filtRecovery (addr : Byte) (slot : Nat) (cand prev : BitVec 64) (cnt : BitVec 2)
  /-- (addr, slot, cand, prev, cnt). -/
  | filtBadIndex (addr : Byte) (slot : Nat) (cand prev : BitVec 64) (cnt : BitVec 2)
  /-- (cmd, num). -/
  | replyTimeout (cmd num : Byte)
  /-- (dev, num, payload). -/
  | protocolError (dev num : Byte) (payload : List Byte)
  /-- (dev, num, payload). -/
  | errorState (dev num : Byte) (payload : List Byte)
  /-- (dev, num, cmd, len). -/
  | unexpectedPacket (dev num cmd : Byte) (len : Nat)
  /-- (cmd, len). -/
  | malformedReply (cmd : Byte) (len : Nat)
  /-- (type, version bytes). -/
  | versionInfo (type : Byte) (version : List Byte)
  /-- (addr, type). -/
  | devtypeInfo (addr type : Byte)
  /-- (ok, initial). -/
  | aefResult (ok initial : Bool)
  /-- (addr, cfg_invCount). -/
  | configError (addr invCount : Byte)
  /-- (). -/
  | zeroAddr
  /-- (payload). -/
  | glitchDiscard (payload : List Byte)
  /-- (kind). -/
  | queueFull (kind : QKind)
  deriving DecidableEq, Repr

/-- Why the Frame Assembler discards (R58). -/
inductive DiscardReason where
  /-- A byte at positions 0 to 2 that is not the sync byte. -/
  | badSync
  /-- LEN above `P_MAX_INV`. -/
  | badLen
  /-- The checksum does not match. -/
  | badCsum
  /-- The buffer is full. -/
  | overflow
  deriving DecidableEq, Repr

/-- The Frame Assembler's result for one byte (R58). -/
inductive FrameEvent where
  /-- CONTINUE. -/
  | continued
  /-- DISCARD(reason). -/
  | discard (reason : DiscardReason)
  /-- COMPLETE(frame): the LEN + 8 validated bytes. -/
  | complete (bytes : List Byte)
  deriving DecidableEq, Repr

/-- The answer to one ENQ (R62). -/
inductive QResult where
  /-- The entry was appended. -/
  | ok
  /-- The queue was full. -/
  | full
  deriving DecidableEq, Repr

/-- The output records (R57 to R62). -/
inductive Record where
  /-- FRAME(ev) (R58). -/
  | frame (ev : FrameEvent)
  /-- LOG(sev, code, args): severity, numeric code of R320, and the event with its fields (R59). -/
  | log (sev : Severity) (code : Byte) (ev : Event)
  /-- TX(bytes) (R61). -/
  | tx (bytes : List Byte)
  /-- REPORT(addr, v[0..8]) (R60). -/
  | report (addr : Byte) (values : List (BitVec 64))
  /-- QRESP(result) (R62). -/
  | qresp (result : QResult)
  deriving DecidableEq, Repr

/-- One input transaction: the timestamp and the `op` word (R56, R110). -/
structure Txn where
  /-- The timestamp in milliseconds (R8). -/
  now : Word32
  /-- The `op` word (R110). -/
  op : Word32
  deriving DecidableEq, Repr

/-- The state of the block. The comments give the spec's name of each field and its rule in spec/10_state.md. -/
structure State where
  /-- The implementation parameters (spec/00_scope.md R9); no step writes them. -/
  params : Params
  /-- The MODEL's input port: the transactions waiting, oldest first (R55, R56; log entry 5). -/
  inq : List Txn
  /-- The timestamp of the transaction being run (R56; log entry 5). -/
  now : Word32
  /-- The MODEL's output port: the ordered records of the last step (R57; log entry 5). -/
  outp : List Record
  /-- `sys_live` (R49). -/
  sysLive : Bool
  /-- `cfg_invCount` (R48). -/
  cfgInvCount : Byte
  /-- `cfg_autoAef` (R48). -/
  cfgAutoAef : Bool
  /-- `cfg_debug` (R48). -/
  cfgDebug : BitVec 2
  /-- `fa_pos` (R32). -/
  faPos : Nat
  /-- `fa_buf[0 .. P_BUF_SIZE-1]` (R32). -/
  faBuf : List Byte
  /-- `fa_syncErrs` (R33). -/
  faSyncErrs : Word32
  /-- `wd_lastRx` (R34). -/
  wdLastRx : Word32
  /-- `wd_reported` (R34). -/
  wdReported : Bool
  /-- `sq_cur` (R35). -/
  sqCur : CmdKind
  /-- `sq_p1` (R36). -/
  sqP1 : Option Byte
  /-- `sq_p2` (R36). -/
  sqP2 : Option Byte
  /-- `sq_idleNext` (R37). -/
  sqIdleNext : IdleKind
  /-- `sq_valIdx` (R38). -/
  sqValIdx : Nat
  /-- `sq_awaiting` (R39). -/
  sqAwaiting : Bool
  /-- `sq_sendTime` (R39). -/
  sqSendTime : Word32
  /-- `sq_outCmd` (R40). -/
  sqOutCmd : Byte
  /-- `sq_outNum` (R40). -/
  sqOutNum : Byte
  /-- `sq_seqComplete` (R41). -/
  sqSeqComplete : Bool
  /-- `sq_nActive` (R42). -/
  sqNActive : Nat
  /-- `sq_active[0 .. P_MAX_INV-1]` (R42). -/
  sqActive : List Byte
  /-- `sq_invCursor` (R42). -/
  sqInvCursor : Nat
  /-- `sq_aef` (R43). -/
  sqAef : AefState
  /-- `sq_zeroWarned` (R44). -/
  sqZeroWarned : Bool
  /-- `mt_val`: row `a - 1` holds the nine values of the inverter address `a` (R45). -/
  mtVal : List (List (BitVec 64))
  /-- `mt_rej`: row `a - 1` holds the nine rejection counters of the address `a` (R46). -/
  mtRej : List (List (BitVec 2))
  /-- `q_ent[0 .. P_QCAP-1]` (R47). -/
  qEnt : List QEntry
  /-- `q_head` (R47). -/
  qHead : Nat
  /-- `q_tail` (R47). -/
  qTail : Nat
  /-- `q_count` (R47). -/
  qCount : Nat
  deriving DecidableEq, Repr

/-- Why the model stops at a state the spec rules out. The block itself has no fault (spec/60_exceptions.md R335): every
fault names an index outside an internal memory, or a division by 0, that the invariant of spec/10_state.md R51 excludes.
Each is SAFE: the model stops where the spec gives no behaviour. (log entry 11) -/
inductive Fault where
  /-- Raised by RX_BYTE when `fa_buf` has no LEN entry, or `fa_pos` lies past the frame's last byte (against R51 item 8). -/
  | framePosition
  /-- Raised when `sq_invCursor` lies outside `sq_active` (against R42). -/
  | activeIndex
  /-- Raised when an inverter address lies outside 1 to `P_MAX_INV` at the measurement table (against R51 item 4). -/
  | tableIndex
  /-- Raised when a GetValues exchange stands at a slot above 8 (against R51 item 9). -/
  | slotIndex
  /-- Raised when a sweep ends with `sq_nActive` = 0 (against R51 item 2). -/
  | emptySweep
  /-- Raised by the dequeue when `q_tail` lies outside `q_ent` (against R47). -/
  | queueIndex
  deriving DecidableEq, Repr

/-- Why the model gives an instruction no meaning (`refuse` of spec/00_scope.md R13, spec/60_exceptions.md R335). Each is
SAFE: the spec says that a refused transaction has no successor state. -/
inductive Refusal where
  /-- Raised by `exec` for an instruction that has no meaning yet; no arm uses it. -/
  | notModelled (mnemonic : String)
  /-- Raised by every instruction but RESET while `sys_live` = 0 (R49, R361). -/
  | notLive
  /-- Raised by the fetch when the word is no transaction (R113). -/
  | undecodable (e : DecodeError)
  /-- Raised by RESET with `invCount` 0 or above `P_MAX_INV` (R113). -/
  | resetInvCount
  /-- Raised by RESET with `debug` 3 (R113). -/
  | resetDebug
  /-- Raised by TICK with `dom` 0 (R113). -/
  | tickDom
  /-- Raised by ENQ AEF with `p2` valid and `p1` not valid (R113). -/
  | enqP2WithoutP1
  /-- Raised by SET_DEBUG with `level` 3 (R113). -/
  | debugLevel
  /-- Raised by an inbound frame that the Frame Assembler never validates: LEN above `P_MAX_INV` (R109) or more bytes than
  `P_BUF_SIZE` (R144). No RX_BYTE leads to it. -/
  | neverValidated
  deriving DecidableEq, Repr

/-- The outcome of an instruction. -/
abbrev Result := Host.Outcome State Fault Refusal

/-- The machine right after reset: R50 for a RESET with `now` 0, `invCount` 1, `autoAef` 0 and `debug` 0 (the operands are
a DESIGN CHOICE, log entry 2), in the test binding (log entry 1), with `fa_buf` zeros and `q_ent` GV entries (R50 leaves both
unspecified; DESIGN CHOICE, log entry 4). No transaction waits. -/
def State.reset : State where
  params := Config.testBinding
  inq := []
  now := 0#32
  outp := []
  sysLive := true
  cfgInvCount := 1#8
  cfgAutoAef := false
  cfgDebug := 0#2
  faPos := 0
  faBuf := List.replicate 16 0#8
  faSyncErrs := 0#32
  wdLastRx := 0#32
  wdReported := false
  sqCur := .gai
  sqP1 := none
  sqP2 := none
  sqIdleNext := .gai
  sqValIdx := 0
  sqAwaiting := false
  sqSendTime := 0#32
  sqOutCmd := 0#8
  sqOutNum := 0#8
  sqSeqComplete := true
  sqNActive := 0
  sqActive := List.replicate 8 0#8
  sqInvCursor := 0
  sqAef := .init
  sqZeroWarned := false
  mtVal := List.replicate 8 (List.replicate 9 0#64)
  mtRej := List.replicate 8 (List.replicate 9 0#2)
  qEnt := List.replicate 10 (QEntry.mk .gv none none)
  qHead := 0
  qTail := 0
  qCount := 0

/-- A machine before its first RESET: `sys_live` = 0. Every other field is unspecified (R49, R361), so it is a state given
otherwise, here that of `State.reset`; nothing but RESET runs on it. -/
def State.beforeReset : State := { State.reset with sysLive := false }

end Sys2Proof.Machine
end

