-- ==== Sys2Proof/Machine/Ops.lean ====
section
/-! DEFINITION. The shared operations: output records, the live check, the discard (the block's only abort: it has no trap
and no return from one, spec/60_exceptions.md R325, R326), the internal memories of spec/10_state.md R54, the Command Queue,
and the state a RESET transaction leaves (R50). -/

namespace Sys2Proof.Machine

/-! ## Output records -/

/-- The severity of an event's LOG record (R320). -/
def Event.sev : Event → Severity
  | .filtOverride _ _ _ _ _ => .info
  | .filtRecovery _ _ _ _ _ => .info
  | .versionInfo _ _ => .info
  | .devtypeInfo _ _ => .info
  | .aefResult ok _ => if ok then .info else .warn
  | .configError _ _ => .fatal
  | .syncErr _ _ _ => .warn
  | .lenErr _ => .warn
  | .csumErr _ _ => .warn
  | .overflow _ => .warn
  | .zeroRead => .warn
  | .noData _ => .warn
  | .decUnderflow _ _ _ => .warn
  | .decOverflow _ _ _ => .warn
  | .filtReject _ _ _ _ _ => .warn
  | .filtShutdown _ _ _ _ _ => .warn
  | .filtBadIndex _ _ _ _ _ => .warn
  | .replyTimeout _ _ => .warn
  | .protocolError _ _ _ => .warn
  | .errorState _ _ _ => .warn
  | .unexpectedPacket _ _ _ _ => .warn
  | .malformedReply _ _ => .warn
  | .zeroAddr => .warn
  | .glitchDiscard _ => .warn
  | .queueFull _ => .warn

/-- The 8-bit event code (R320). -/
def Event.code : Event → Byte
  | .syncErr _ _ _ => 0x01#8
  | .lenErr _ => 0x02#8
  | .csumErr _ _ => 0x03#8
  | .overflow _ => 0x04#8
  | .zeroRead => 0x05#8
  | .noData _ => 0x06#8
  | .decUnderflow _ _ _ => 0x10#8
  | .decOverflow _ _ _ => 0x11#8
  | .filtReject _ _ _ _ _ => 0x20#8
  | .filtOverride _ _ _ _ _ => 0x21#8
  | .filtShutdown _ _ _ _ _ => 0x22#8
  | .filtRecovery _ _ _ _ _ => 0x23#8
  | .filtBadIndex _ _ _ _ _ => 0x24#8
  | .replyTimeout _ _ => 0x30#8
  | .protocolError _ _ _ => 0x31#8
  | .errorState _ _ _ => 0x32#8
  | .unexpectedPacket _ _ _ _ => 0x33#8
  | .malformedReply _ _ => 0x34#8
  | .versionInfo _ _ => 0x35#8
  | .devtypeInfo _ _ => 0x36#8
  | .aefResult _ _ => 0x37#8
  | .configError _ _ => 0x38#8
  | .zeroAddr => 0x39#8
  | .glitchDiscard _ => 0x3A#8
  | .queueFull _ => 0x40#8

/-- The numeric severity of R320. -/
def Severity.toNat : Severity → Nat
  | .info => 1
  | .warn => 2
  | .fatal => 3

/-- The LOG record of an event (R59, R320). -/
def logRecord (e : Event) : Record := .log e.sev e.code e

/-- `emit R(...)`: appends a record to the step's output list (R13, R57). -/
def emit (r : Record) (s : State) : State := { s with outp := s.outp ++ [r] }

/-- `emit LOG(...)`. -/
def log (e : Event) (s : State) : State := emit (logRecord e) s

/-- `emit LOG(...)` for a diagnostic that may be absent. -/
def logOpt (e : Option Event) (s : State) : State :=
  match e with
  | some e => log e s
  | none => s

/-! ## The live check and the discard -/

/-- Everything but RESET is refused while `sys_live` = 0 (R49, R113, R361). -/
def whenLive (s : State) (r : Result) : Result := if s.sysLive then r else .refused .notLive

/-- `raise Discard(reason)`: emits `FRAME(DISCARD(reason))` and sets `fa_pos` to 0; nothing else (R148, R325). -/
def raiseDiscard (reason : DiscardReason) (s : State) : State :=
  { emit (.frame (.discard reason)) s with faPos := 0 }

/-! ## The internal memories (R54) -/

/-- `fa_buf[p] <- b ; fa_pos <- p + 1` (R141, R145). -/
def storeByte (p : Nat) (b : Byte) (s : State) : State := { s with faBuf := s.faBuf.set p b, faPos := p + 1 }

/-- The row of the measurement table for the address `a` in 1 to `P_MAX_INV`: the nine values `mt_val[a][0..8]` (R45). -/
def valRow (s : State) (a : Byte) : Option (List (BitVec 64)) :=
  if a = 0#8 then none else s.mtVal[a.toNat - 1]?

/-- The nine rejection counters `mt_rej[a][0..8]` (R46). -/
def rejRow (s : State) (a : Byte) : Option (List (BitVec 2)) :=
  if a = 0#8 then none else s.mtRej[a.toNat - 1]?

/-- `mt_val[a][k]` (R45). -/
def valAt (s : State) (a : Byte) (k : Nat) : Option (BitVec 64) := (valRow s a).bind (·[k]?)

/-- `mt_rej[a][k]` (R46). -/
def rejAt (s : State) (a : Byte) (k : Nat) : Option (BitVec 2) := (rejRow s a).bind (·[k]?)

/-- Writes `mt_val[a][k]` and `mt_rej[a][k]` together (R84). -/
def storeEntry (a : Byte) (k : Nat) (v : BitVec 64) (c : BitVec 2) (s : State) : State :=
  { s with
    mtVal := s.mtVal.modify (a.toNat - 1) fun row => row.set k v
    mtRej := s.mtRej.modify (a.toNat - 1) fun row => row.set k c }

/-- `sq_active[i]` (R42). -/
def activeAt (s : State) (i : Nat) : Option Byte := s.sqActive[i]?

/-! ## The Command Queue -/

/-- ENQ: appends one entry at `q_head`, or `queue_full` (R300, R301). -/
def enqueue (kind : QKind) (p1 p2 : Option Byte) (s : State) : State :=
  if s.qCount = s.params.qCap then
    emit (.qresp .full) (log (.queueFull kind) s)
  else
    emit (.qresp .ok)
      { s with
        qEnt := s.qEnt.set s.qHead (QEntry.mk kind p1 p2)
        qHead := (s.qHead + 1) % s.params.qCap
        qCount := s.qCount + 1 }

/-- `dequeue()`: the entry at `q_tail` and the state after it; the slot is not cleared (R302). -/
def dequeue (s : State) : Option (QEntry × State) :=
  match s.qEnt[s.qTail]? with
  | some e => some (e, { s with qTail := (s.qTail + 1) % s.params.qCap, qCount := s.qCount - 1 })
  | none => none

/-- The sequencer command of a queue entry's kind (R304). -/
def QKind.cmd : QKind → CmdKind
  | .gv => .gv
  | .gdt => .gdt
  | .gai => .gai
  | .aef => .aef

/-- The sequencer command of an idle sequence (R37). -/
def IdleKind.cmd : IdleKind → CmdKind
  | .gai => .gai
  | .gval => .gval

/-! ## RESET (R50) -/

/-- A queue entry's kind from its two bits (R47). -/
def QKind.ofBits (b : BitVec 2) : QKind :=
  if b = 0#2 then .gv else if b = 1#2 then .gdt else if b = 2#2 then .gai else .aef

/-- A queue entry from its 2 + 9 + 9 bits (R54): the kind in bits 1:0, then each parameter as its valid bit and its data. -/
def QEntry.ofBits (b : BitVec 20) : QEntry where
  kind := QKind.ofBits (b.extractLsb' 0 2)
  p1 := if b.getLsbD 2 then some (b.extractLsb' 3 8) else none
  p2 := if b.getLsbD 11 then some (b.extractLsb' 12 8) else none

/-- The state after a RESET transaction, field by field as the table of R50. `fa_buf` and `q_ent` are unspecified there, so
their contents are free values of the RESET operands (log entry 3). The parameters and the ports are no field of R50. -/
def afterReset (invCount : Byte) (autoAef : Bool) (debug : BitVec 2) (s : State) : State where
  params := s.params
  inq := s.inq
  now := s.now
  outp := s.outp
  sysLive := true
  cfgInvCount := invCount
  cfgAutoAef := autoAef
  cfgDebug := debug
  faPos := 0
  faBuf := (List.range s.params.bufSize).map (Config.faBufAfterReset s.now invCount autoAef debug)
  faSyncErrs := 0#32
  wdLastRx := s.now
  wdReported := false
  sqCur := if autoAef then .aef else .gai
  sqP1 := none
  sqP2 := none
  sqIdleNext := .gai
  sqValIdx := 0
  sqAwaiting := false
  sqSendTime := 0#32
  sqOutCmd := 0#8
  sqOutNum := 0#8
  sqSeqComplete := !autoAef
  sqNActive := 0
  sqActive := List.replicate s.params.maxInv 0#8
  sqInvCursor := 0
  sqAef := .init
  sqZeroWarned := false
  mtVal := List.replicate s.params.maxInv (List.replicate Config.pNSlots 0#64)
  mtRej := List.replicate s.params.maxInv (List.replicate Config.pNSlots 0#2)
  qEnt := (List.range s.params.qCap).map fun i =>
    QEntry.ofBits (Config.qEntAfterReset s.now invCount autoAef debug i)
  qHead := 0
  qTail := 0
  qCount := 0

end Sys2Proof.Machine
end

