-- ==== Sys2Proof/Machine/Operands.lean ====
section
/-! DEFINITION. How operands are assembled: the fields of a reply (spec/30_encoding.md R106), the elapsed time
(spec/00_scope.md R8), the target address and the parameters of a request (spec/43_command_sequencer.md R231, R233, R242), and
the addresses of a discovery (R262). -/

namespace Sys2Proof.Machine

/-- `magnitude = magHi * 256 + magLo`, unsigned 16-bit, high byte first (R82, R106, R173). -/
def magnitude (hi lo : Byte) : BitVec 16 := hi ++ lo

/-- `sext_8(b)`: the two's-complement value of a byte (R13, R106, R174). -/
def sext8 (b : Byte) : Int := b.toInt

/-- `(t1 - t0) mod 2^32` (R8, R340). -/
def elapsed (t1 t0 : Word32) : Word32 := t1 - t0

/-- The target of a GetValues request, `sq_active[sq_invCursor]` (R233). -/
def valTarget (s : State) : Option Byte := activeAt s s.sqInvCursor

/-- The target of a GetDeviceType request: `sq_active[sq_invCursor]` if `sq_nActive` > 0, else address 1 (R231). -/
def devTarget (s : State) : Option Byte := if 0 < s.sqNActive then activeAt s s.sqInvCursor else some 1#8

/-- A multi-inverter deployment: `cfg_invCount` > 1 (R11). -/
def multiInverter (s : State) : Bool := decide (1 < s.cfgInvCount.toNat)

/-- `p1` of the ActivateErrorForwarding request (R242): the queued parameter, or the day of the month in a multi-inverter
deployment, or `AEF_P1_SINGLE`. -/
def aefP1 (dom : BitVec 5) (s : State) : Byte :=
  match s.sqP1 with
  | some p1 => p1
  | none => if multiInverter s then dom.zeroExtend 8 else s.params.aefP1Single

/-- `p2` of the ActivateErrorForwarding request (R242): the queued parameter, or `AEF_P2_DEFAULT`. -/
def aefP2 (s : State) : Byte :=
  match s.sqP2 with
  | some p2 => p2
  | none => s.params.aefP2Default

/-- An address byte of 0 in a discovery reply is normalised to 1 (R106, R262). -/
def normAddr (b : Byte) : Byte := if b = 0#8 then 1#8 else b

/-- The checksum of the frame in `fa_buf` with the given LEN: the sum of `fa_buf[3 .. LEN+6]` modulo 256 (R101, R146). -/
def bufChecksum (len : Nat) (buf : List Byte) : Byte := checksum ((buf.drop 3).take (len + 4))

/-- The payload `fa_buf[7 .. LEN+6]` (R146). -/
def bufPayload (len : Nat) (buf : List Byte) : List Byte := (buf.drop 7).take len

end Sys2Proof.Machine
end

