-- ==== Sys2Proof/Machine/Flags.lean ====
section
/-! DEFINITION. The status flags of spec/10_state.md R52 and the rules that set and clear them: `sq_awaiting`, `sq_seqComplete`,
`sq_aef`, `sq_zeroWarned` and `wd_reported`; with the ends of an exchange, which are where `sq_seqComplete` is set
(spec/43_command_sequencer.md R270 to R273). -/

namespace Sys2Proof.Machine

/-! ## The watchdog flag -/

/-- Every RX_BYTE re-arms the watchdog (R140, R341). -/
def rearm (s : State) : State := { s with wdLastRx := s.now, wdReported := false }

/-- `watchdog()`: reports NO_DATA once per silence (R341). -/
def watchdog (s : State) : State :=
  if s.wdReported = false ∧ s.params.noDataMs ≤ (elapsed s.now s.wdLastRx).toNat then
    { log (.noData (elapsed s.now s.wdLastRx)) s with wdReported := true }
  else s

/-! ## The reply flag -/

/-- Clears `sq_awaiting`. -/
def clearAwaiting (s : State) : State := { s with sqAwaiting := false }

/-- Request commit: `TX(bytes)`, then the outstanding request is recorded (R224). -/
def commit (dev num cmd : Byte) (pl : List Byte) (s : State) : State :=
  { emit (.tx (frame dev num cmd pl)) s with
    sqAwaiting := true
    sqSendTime := s.now
    sqOutCmd := cmd
    sqOutNum := num }

/-- Whether a frame's CMD and NUM answer the outstanding request (R250). -/
def matchesRequest (num cmd : Byte) (s : State) : Bool :=
  s.sqAwaiting && decide (cmd = s.sqOutCmd) && decide (num = s.sqOutNum)

/-- Whether an error frame is a response to the outstanding request (R251). -/
def answersRequest (num : Byte) (s : State) : Bool := s.sqAwaiting && decide (num = s.sqOutNum)

/-! ## The ends of an exchange -/

/-- The end of a sequence of one exchange (R270). -/
def completeSequence (s : State) : State := { s with sqSeqComplete := true }

/-- A discovery's end: a failed one sets `sq_idleNext` to GAI (R270). -/
def discoveryDone (ok : Bool) (s : State) : State :=
  completeSequence (if ok then s else { s with sqIdleNext := .gai })

/-- `aef_result(ok)` (R272). -/
def aefDone (ok : Bool) (s : State) : State :=
  { log (.aefResult ok (decide (s.sqAef = .init))) s with sqAef := .complete, sqSeqComplete := true }

/-- The end of a GetValues sweep: REPORT, then the cursor and the idle alternation (R271). -/
def sweepEnd (s : State) : Result :=
  match valTarget s with
  | none => .fault .activeIndex
  | some a =>
    match valRow s a with
    | none => .fault .tableIndex
    | some values =>
      if s.sqNActive = 0 then .fault .emptySweep
      else
        .next
          { emit (.report a values) s with
            sqInvCursor := (s.sqInvCursor + 1) % s.sqNActive
            sqIdleNext := .gai
            sqSeqComplete := true }

/-- `sweep_step()`: the next slot, and after slot 8 the end of the sweep (R271). -/
def sweepStep (s : State) : Result :=
  if s.sqValIdx + 1 = Config.pNSlots then sweepEnd { s with sqValIdx := s.sqValIdx + 1 }
  else .next { s with sqValIdx := s.sqValIdx + 1 }

/-- `step_done(ok)` ends one request/reply exchange of the current sequence (R270). -/
def stepDone (ok : Bool) (s : State) : Result :=
  match s.sqCur with
  | .gval => sweepStep s
  | .aef => .next (aefDone ok s)
  | .gai => .next (discoveryDone ok s)
  | .gv => .next (completeSequence s)
  | .gdt => .next (completeSequence s)

/-- `malformed()`: a matched reply of the wrong length; `sq_awaiting` is already 0 (R259). -/
def malformed (cmd : Byte) (pl : List Byte) (s : State) : Result :=
  stepDone false (log (.malformedReply cmd pl.length) s)

/-- `timeout()` (R273). -/
def timeout (s : State) : Result :=
  stepDone false (clearAwaiting (log (.replyTimeout s.sqOutCmd s.sqOutNum) s))

/-- The zero-address warning, given once (R262). -/
def warnZero (pl : List Byte) (s : State) : State :=
  if pl.any (· == 0#8) && !s.sqZeroWarned then { log .zeroAddr s with sqZeroWarned := true } else s

end Sys2Proof.Machine
end

