-- ==== Sys2Proof/Machine/SanityFilter.lean ====
section
/-! DEFINITION. The Sanity Filter (spec/42_sanity_filter.md): one judgement of a candidate value, with the bounds of R192 in
milli-units. All comparisons are exact (spec/00_scope.md R14: nothing wraps). -/

namespace Sys2Proof.Machine

/-- The filter's answer: the value and counter to store, and the LOG record if one is emitted (R191, R193). -/
structure Filtered where
  /-- The value to store. -/
  value : BitVec 64
  /-- The rejection counter to store. -/
  counter : BitVec 2
  /-- The LOG record. -/
  diag : Option Event
  deriving DecidableEq, Repr

/-- The operands of FILTER (R191). -/
structure FilterArgs where
  /-- The inverter address, used in the log fields only. -/
  a : Byte
  /-- The slot. -/
  idx : Nat
  /-- The candidate, DECODE's result. -/
  cand : BitVec 64
  /-- The stored value, `mt_val[a][idx]`. -/
  prev : BitVec 64
  /-- The stored counter, `mt_rej[a][idx]`. -/
  cnt : BitVec 2
  /-- The stored DC voltage, `mt_val[a][8]`. -/
  dcv : BitVec 64
  deriving DecidableEq, Repr

/-- reject: the previous value stays and the counter goes up (R193). -/
def reject (x : FilterArgs) : Filtered :=
  Filtered.mk x.prev (x.cnt + 1#2) (some (.filtReject x.a x.idx x.cand x.prev x.cnt))

/-- accept: the candidate is taken and the counter cleared (R193). -/
def accept (x : FilterArgs) : Filtered := Filtered.mk x.cand 0#2 none

/-- Rejects a candidate above an inclusive bound (R192). -/
def bounded (bound : Nat) (x : FilterArgs) : Filtered := if bound < x.cand.toNat then reject x else accept x

/-- The energy test: rejects an increase above 10,000,000 from a previous value above 0 (R195). -/
def energyBounded (x : FilterArgs) : Filtered :=
  if 0 < x.prev.toNat ∧ x.prev.toNat + 10000000 < x.cand.toNat then reject x else accept x

/-- FILT_0 (PWR) (R194). -/
def filt0 (x : FilterArgs) : Filtered := bounded 10000000 x

/-- FILT_1 (E_TOT) (R195). -/
def filt1 (x : FilterArgs) : Filtered := energyBounded x

/-- FILT_2 (E_DAY) (R196). -/
def filt2 (x : FilterArgs) : Filtered := energyBounded x

/-- FILT_3 (E_YEAR) (R197). -/
def filt3 (x : FilterArgs) : Filtered := energyBounded x

/-- FILT_4 (IAC) (R198). -/
def filt4 (x : FilterArgs) : Filtered := bounded 100000 x

/-- FILT_5 (VAC): the brownout accepts and still counts, then the bound, then the recovery (R199, R205). -/
def filt5 (x : FilterArgs) : Filtered :=
  if 200000 < x.prev.toNat ∧ x.cand.toNat < 200000 ∧ 0 < x.dcv.toNat then
    Filtered.mk x.cand (x.cnt + 1#2) (some (.filtShutdown x.a 5 x.cand x.prev x.cnt))
  else if 550000 < x.cand.toNat then reject x
  else if x.prev.toNat < 200000 ∧ 200000 < x.cand.toNat then
    Filtered.mk x.cand 0#2 (some (.filtRecovery x.a 5 x.cand x.prev x.cnt))
  else accept x

/-- FILT_6 (FAC) (R200). -/
def filt6 (x : FilterArgs) : Filtered := bounded 100000 x

/-- FILT_7 (IDC) (R201). -/
def filt7 (x : FilterArgs) : Filtered := bounded 100000 x

/-- FILT_8 (VDC) (R202). -/
def filt8 (x : FilterArgs) : Filtered := bounded 600000 x

/-- Bad index: rejected outright under its own event (R203). -/
def filtBadIndex (x : FilterArgs) : Filtered :=
  Filtered.mk x.prev (x.cnt + 1#2) (some (.filtBadIndex x.a x.idx x.cand x.prev x.cnt))

/-- Override: after three rejections any candidate is taken (R190). -/
def filtOverride (x : FilterArgs) : Filtered :=
  Filtered.mk x.cand 0#2 (some (.filtOverride x.a x.idx x.cand x.prev x.cnt))

/-- The slot rule, R194 + idx (R191). -/
def filtSlot (x : FilterArgs) : Filtered :=
  match x.idx with
  | 0 => filt0 x
  | 1 => filt1 x
  | 2 => filt2 x
  | 3 => filt3 x
  | 4 => filt4 x
  | 5 => filt5 x
  | 6 => filt6 x
  | 7 => filt7 x
  | 8 => filt8 x
  | _ => filtBadIndex x

/-- FILTER (R191): the override comes before every other test (R190), then the index test, then the slot rule. -/
def filterValue (x : FilterArgs) : Filtered := if 2 < x.cnt.toNat then filtOverride x else filtSlot x

end Sys2Proof.Machine
end

