-- ==== Sys2Proof/Machine/ValueDecoder.lean ====
section
/-! DEFINITION. The Value Decoder (spec/41_value_decoder.md): a combinational function from a value reply's payload to a value
in milli-units, with at most one diagnostic. -/

namespace Sys2Proof.Machine

/-- The power-of-ten table: `LUT[i]` = 10^i (R171). -/
def lut : List Nat :=
  [1, 10, 100, 1000, 10000, 100000, 1000000, 10000000, 100000000, 1000000000, 10000000000, 100000000000,
    1000000000000, 10000000000000]

/-- A decoded value with its diagnostic. -/
structure Decoded where
  /-- The value in milli-units (R170). -/
  value : BitVec 64
  /-- The LOG record, if one is emitted. -/
  diag : Option Event
  deriving DecidableEq, Repr

/-- The exponent used: `BASE_EXP[idx]` for the sentinel byte in the polled range, else the signed byte (R174, R175). -/
def decodeExponent (p : Params) (eb : Byte) (idx : Nat) : Int :=
  if eb = Config.pSentinel ∧ idx < Config.pNSlots then p.baseExp.getD idx 0 else sext8 eb

/-- A diagnostic given only at a debug level of 1 or 2 (R179). -/
def verbose (level : BitVec 2) (e : Event) : Option Event := if 1 ≤ level.toNat then some e else none

/-- DECODE (R172): the exact product in range (R176), 0 with DEC_UNDERFLOW below -3 (R177), 0 with DEC_OVERFLOW above 10
unless the magnitude is 0 (R178). -/
def decodeValue (p : Params) (level : BitVec 2) (hi lo eb : Byte) (idx : Nat) : Decoded :=
  let m := magnitude hi lo
  let e := decodeExponent p eb idx
  if e < Config.pExpMin then Decoded.mk 0#64 (verbose level (.decUnderflow m e idx))
  else if Config.pExpMax < e then
    Decoded.mk 0#64 (if m ≠ 0#16 then verbose level (.decOverflow m e idx) else none)
  else Decoded.mk (BitVec.ofNat 64 (m.toNat * lut.getD (e - Config.pExpMin).toNat 0)) none

end Sys2Proof.Machine
end

