-- ==== Sys2Proof/Machine/Replies.lean ====
section
/-! DEFINITION. What the Command Sequencer does with a validated inbound frame (spec/43_command_sequencer.md R250 to R264, R280 to
R288), and the meanings of the fifteen inbound frame classes: each is the dispatch of a frame with the class's CMD byte. The
RX_BYTE that completes a frame runs the same dispatch after its own `FRAME(COMPLETE)` record (log entry 8). -/

namespace Sys2Proof.Machine

/-! ## The handlers -/

/-- The common part of R251 and R252: a response to the outstanding request ends the exchange as a failure. -/
def errorResponse (num : Byte) (s : State) : Result :=
  if answersRequest num s then stepDone false (clearAwaiting s) else .next s

/-- `rx_protocol_error()` (R251). -/
def protocolErrorReply (dev num : Byte) (pl : List Byte) (s : State) : Result :=
  errorResponse num (log (.protocolError dev num pl) s)

/-- `rx_error_state()` (R252). -/
def errorStateReply (dev num : Byte) (pl : List Byte) (s : State) : Result :=
  errorResponse num (log (.errorState dev num pl) s)

/-- `unexpected()`: a log record and nothing else (R253). -/
def unexpected (dev num cmd : Byte) (pl : List Byte) (s : State) : State :=
  log (.unexpectedPacket dev num cmd pl.length) s

/-- The version reply (R254). -/
def versionReply (cmd : Byte) (pl : List Byte) (s : State) : Result :=
  match pl with
  | t :: rest => stepDone true (log (.versionInfo t rest) (clearAwaiting s))
  | [] => malformed cmd pl (clearAwaiting s)

/-- The device-type reply (R255). -/
def devtypeReply (num cmd : Byte) (pl : List Byte) (s : State) : Result :=
  match pl with
  | t :: _ => stepDone true (log (.devtypeInfo num t) (clearAwaiting s))
  | [] => malformed cmd pl (clearAwaiting s)

/-- The commit of a discovery (R264); `addrs` are the normalised addresses. -/
def commitDiscovery (addrs : List Byte) (s : State) : State :=
  { s with
    sqNActive := addrs.length
    sqActive := addrs ++ s.sqActive.drop addrs.length
    sqInvCursor := if addrs.length ≤ s.sqInvCursor then 0 else s.sqInvCursor
    sqIdleNext := if 0 < addrs.length then .gval else .gai }

/-- The configuration check: the first address above `cfg_invCount` (R263). -/
def configOffender (addrs : List Byte) (s : State) : Option Byte :=
  addrs.find? fun a => decide (s.cfgInvCount.toNat < a.toNat)

/-- R263 or R264 on the normalised addresses. -/
def discoveryOutcome (addrs : List Byte) (s : State) : Result :=
  match configOffender addrs s with
  | some a => stepDone false (log (.configError a s.cfgInvCount) s)
  | none => stepDone true (commitDiscovery addrs s)

/-- The discovery reply (R256): glitch scan (R260), accept (R261), zero normalisation (R262), configuration check (R263),
commit (R264). -/
def activeReply (pl : List Byte) (s : State) : Result :=
  if pl.any (· == s.params.glitchAddr) then .next (log (.glitchDiscard pl) s)
  else discoveryOutcome (pl.map normAddr) (warnZero pl (clearAwaiting s))

/-- The ActivateErrorForwarding reply (R258). -/
def aefReply (s : State) : Result := stepDone true (clearAwaiting s)

/-- Decode, filter and store one value of slot `k`, then end the exchange (R257, R280 to R288). -/
def storeValue (k : Nat) (num hi lo eb : Byte) (s : State) : Result :=
  match valAt s num k, rejAt s num k, valAt s num 8 with
  | some prev, some cnt, some dcv =>
    let d := decodeValue s.params s.cfgDebug hi lo eb k
    let f := filterValue (FilterArgs.mk num k d.value prev cnt dcv)
    stepDone true (storeEntry num k f.value f.counter (logOpt f.diag (logOpt d.diag s)))
  | _, _, _ => .fault .tableIndex

/-- The value reply of slot `k` (R257, R280 to R288); another LEN than 3 is malformed (R259). -/
def valueReply (k : Nat) (num cmd : Byte) (pl : List Byte) (s : State) : Result :=
  match pl with
  | [hi, lo, eb] => storeValue k num hi lo eb (clearAwaiting s)
  | _ => malformed cmd pl (clearAwaiting s)

/-- The handling of a matched reply, by the command of the current sequence (R250). -/
def matchedReply (num cmd : Byte) (pl : List Byte) (s : State) : Result :=
  match s.sqCur with
  | .gv => versionReply cmd pl s
  | .gdt => devtypeReply num cmd pl s
  | .gai => activeReply pl s
  | .gval => if s.sqValIdx < Config.pNSlots then valueReply s.sqValIdx num cmd pl s else .fault .slotIndex
  | .aef => aefReply s

/-- `dispatch(LEN, dev, num, cmd, pl)` (R250, R108). -/
def dispatch (dev num cmd : Byte) (pl : List Byte) (s : State) : Result :=
  if cmd = s.params.cmdPerr then protocolErrorReply dev num pl s
  else if cmd = s.params.cmdEstate then errorStateReply dev num pl s
  else if matchesRequest num cmd s then matchedReply num cmd pl s
  else .next (unexpected dev num cmd pl s)

/-! ## The inbound frame classes -/

/-- Whether the Frame Assembler can validate a frame with this payload (R109, R143, R144). -/
def canValidate (pl : List Byte) (s : State) : Bool :=
  decide (pl.length ≤ s.params.maxInv) && decide (pl.length + 8 ≤ s.params.bufSize)

/-- A validated frame with the given CMD byte arrives at the sequencer. -/
def receive (dev num cmd : Byte) (pl : List Byte) (s : State) : Result :=
  whenLive s (if canValidate pl s then dispatch dev num cmd pl s else .refused .neverValidated)

/-- RX_VERSION: CMD = `CMD_GV` (R254). -/
def execRxVersion (dev num : Byte) (pl : List Byte) (s : State) : Result := receive dev num s.params.cmdGv pl s

/-- RX_DEVTYPE: CMD = `CMD_GDT` (R255). -/
def execRxDevtype (dev num : Byte) (pl : List Byte) (s : State) : Result := receive dev num s.params.cmdGdt pl s

/-- RX_ACTIVE: CMD = `CMD_GAI` (R256). -/
def execRxActive (dev num : Byte) (pl : List Byte) (s : State) : Result := receive dev num s.params.cmdGai pl s

/-- RX_VAL_0 (PWR): CMD = `CMD_VAL_BASE + 0` (R280). -/
def execRxVal0 (dev num : Byte) (pl : List Byte) (s : State) : Result := receive dev num (s.params.cmdVal 0) pl s

/-- RX_VAL_1 (E_TOT): CMD = `CMD_VAL_BASE + 1` (R281). -/
def execRxVal1 (dev num : Byte) (pl : List Byte) (s : State) : Result := receive dev num (s.params.cmdVal 1) pl s

/-- RX_VAL_2 (E_DAY): CMD = `CMD_VAL_BASE + 2` (R282). -/
def execRxVal2 (dev num : Byte) (pl : List Byte) (s : State) : Result := receive dev num (s.params.cmdVal 2) pl s

/-- RX_VAL_3 (E_YEAR): CMD = `CMD_VAL_BASE + 3` (R283). -/
def execRxVal3 (dev num : Byte) (pl : List Byte) (s : State) : Result := receive dev num (s.params.cmdVal 3) pl s

/-- RX_VAL_4 (IAC): CMD = `CMD_VAL_BASE + 4` (R284). -/
def execRxVal4 (dev num : Byte) (pl : List Byte) (s : State) : Result := receive dev num (s.params.cmdVal 4) pl s

/-- RX_VAL_5 (VAC): CMD = `CMD_VAL_BASE + 5` (R285). -/
def execRxVal5 (dev num : Byte) (pl : List Byte) (s : State) : Result := receive dev num (s.params.cmdVal 5) pl s

/-- RX_VAL_6 (FAC): CMD = `CMD_VAL_BASE + 6` (R286). -/
def execRxVal6 (dev num : Byte) (pl : List Byte) (s : State) : Result := receive dev num (s.params.cmdVal 6) pl s

/-- RX_VAL_7 (IDC): CMD = `CMD_VAL_BASE + 7` (R287). -/
def execRxVal7 (dev num : Byte) (pl : List Byte) (s : State) : Result := receive dev num (s.params.cmdVal 7) pl s

/-- RX_VAL_8 (VDC): CMD = `CMD_VAL_BASE + 8` (R288). -/
def execRxVal8 (dev num : Byte) (pl : List Byte) (s : State) : Result := receive dev num (s.params.cmdVal 8) pl s

/-- RX_AEF: CMD = `CMD_AEF` (R258). -/
def execRxAef (dev num : Byte) (pl : List Byte) (s : State) : Result := receive dev num s.params.cmdAef pl s

/-- RX_PROTOCOL_ERROR: CMD = `CMD_PERR` (R251). -/
def execRxProtocolError (dev num : Byte) (pl : List Byte) (s : State) : Result := receive dev num s.params.cmdPerr pl s

/-- RX_ERROR_STATE: CMD = `CMD_ESTATE` (R252). -/
def execRxErrorState (dev num : Byte) (pl : List Byte) (s : State) : Result := receive dev num s.params.cmdEstate pl s

end Sys2Proof.Machine
end

