-- ==== Sys2Proof/Machine/Assembler.lean ====
section
/-! DEFINITION. The Frame Assembler (spec/40_frame_assembler.md): RX_BYTE with its position rules, RX_IDLE and LINE_OPEN. -/

namespace Sys2Proof.Machine

/-- Whether the `n`-th sync error is logged: the first, then every 100th, and not the wrapped 0 (R142). -/
def syncErrLogged (n : Word32) : Bool :=
  decide (n = 1#32) || (decide (n.toNat % Config.pRate = 0) && decide (n ≠ 0#32))

/-- sync_byte, mismatch (R142). -/
def syncMismatch (b : Byte) (p : Nat) (s : State) : State :=
  let n := s.faSyncErrs + 1#32
  let s := raiseDiscard .badSync { s with faSyncErrs := n }
  if syncErrLogged n then log (.syncErr n b p) s else s

/-- sync_byte: positions 0 to 2 (R141, R142). -/
def syncByte (b : Byte) (p : Nat) (s : State) : State :=
  if b = Config.pSync then emit (.frame .continued) (storeByte p b s) else syncMismatch b p s

/-- length_byte: position 3 (R143). -/
def lengthByte (b : Byte) (s : State) : State :=
  if s.params.maxInv < b.toNat then log (.lenErr b) (raiseDiscard .badLen s)
  else emit (.frame .continued) (storeByte 3 b s)

/-- overflow: the buffer is full (R144). -/
def overflowByte (p : Nat) (s : State) : State := log (.overflow p) (raiseDiscard .overflow s)

/-- checksum_bad (R147). -/
def checksumBad (computed b : Byte) (s : State) : State := log (.csumErr computed b) (raiseDiscard .badCsum s)

/-- body_byte, last (R146): the assembler resets, then the frame goes to the sequencer if its checksum is good. -/
def lastByte (len p : Nat) (b : Byte) (s : State) : Result :=
  let s := { s with faBuf := s.faBuf.set p b, faPos := 0 }
  let computed := bufChecksum len s.faBuf
  if computed = b then
    dispatch (s.faBuf.getD 4 0#8) (s.faBuf.getD 5 0#8) (s.faBuf.getD 6 0#8) (bufPayload len s.faBuf)
      (emit (.frame (.complete (s.faBuf.take (len + 8)))) s)
  else .next (checksumBad computed b s)

/-- body_byte: positions from 4 on (R145, R146, R147); LEN is `fa_buf[3]` (R32). -/
def bodyByte (b : Byte) (p : Nat) (s : State) : Result :=
  match s.faBuf[3]? with
  | none => .fault .framePosition
  | some len =>
    if p < len.toNat + 7 then .next (emit (.frame .continued) (storeByte p b s))
    else if p = len.toNat + 7 then lastByte len.toNat p b s
    else .fault .framePosition

/-- The position tests of R140, in its order. -/
def ingest (b : Byte) (s : State) : Result :=
  if s.faPos < 3 then .next (syncByte b s.faPos s)
  else if s.params.bufSize ≤ s.faPos then .next (overflowByte s.faPos s)
  else if s.faPos = 3 then .next (lengthByte b s)
  else bodyByte b s.faPos s

/-- RX_BYTE (R140). -/
def execRxByte (b : Byte) (s : State) : Result := whenLive s (ingest b (rearm s))

/-- RX_IDLE: a serial read returned zero bytes (R150). -/
def execRxIdle (s : State) : Result := whenLive s (.next (log .zeroRead s))

/-- LINE_OPEN: the partial frame is abandoned (R154). -/
def execLineOpen (s : State) : Result := whenLive s (.next { s with faPos := 0 })

end Sys2Proof.Machine
end

