-- ==== Sys2Proof/Machine/Control.lean ====
section
/-! DEFINITION. The control transactions: RESET (spec/70_reset_and_hazards.md R360), the four ENQ rows and SET_DEBUG
(spec/44_command_queue.md R300, R309), with the refusals of spec/30_encoding.md R113. -/

namespace Sys2Proof.Machine

/-- RESET (R360): accepted in every state, the state before the first RESET too. -/
def execReset (invCount : Byte) (autoAef : Bool) (debug : BitVec 2) (s : State) : Result :=
  if invCount = 0#8 ∨ s.params.maxInv < invCount.toNat then .refused .resetInvCount
  else if debug = 3#2 then .refused .resetDebug
  else .next (afterReset invCount autoAef debug s)

/-- ENQ GV (R300). -/
def execEnqGv (s : State) : Result := whenLive s (.next (enqueue .gv none none s))

/-- ENQ GDT (R300). -/
def execEnqGdt (s : State) : Result := whenLive s (.next (enqueue .gdt none none s))

/-- ENQ GAI (R300). -/
def execEnqGai (s : State) : Result := whenLive s (.next (enqueue .gai none none s))

/-- ENQ AEF (R300); `p2` valid without `p1` is refused (R113). -/
def execEnqAef (p1 p2 : Option Byte) (s : State) : Result :=
  whenLive s (if p1.isNone && p2.isSome then .refused .enqP2WithoutP1 else .next (enqueue .aef p1 p2 s))

/-- SET_DEBUG (R309); level 3 is refused (R113). -/
def execSetDebug (level : BitVec 2) (s : State) : Result :=
  whenLive s (if level = 3#2 then .refused .debugLevel else .next { s with cfgDebug := level })

end Sys2Proof.Machine
end

