-- ==== Sys2Proof/Machine/Requests.lean ====
section
/-! DEFINITION. The thirteen outbound requests (spec/43_command_sequencer.md R230 to R242): each emits its frame and records the
outstanding request (R224). A TICK runs the one that R223 selects, with the operands of R231, R233 and R242; on its own a
request has the effect its rule gives it, without the guard of R223, which is the TICK's (log entry 7). -/

namespace Sys2Proof.Machine

/-- TX_GETVERSION: `frame(0x00, 0x00, CMD_GV, [])` (R230). -/
def execTxGetversion (s : State) : Result := whenLive s (.next (commit 0#8 0#8 s.params.cmdGv [] s))

/-- TX_GETDEVTYPE: `frame(DEV_INV, n, CMD_GDT, [])` (R231). -/
def execTxGetdevtype (n : Byte) (s : State) : Result :=
  whenLive s (.next (commit s.params.devInv n s.params.cmdGdt [] s))

/-- TX_GETACTIVE: `frame(0x00, 0x00, CMD_GAI, [])` (R232). -/
def execTxGetactive (s : State) : Result := whenLive s (.next (commit 0#8 0#8 s.params.cmdGai [] s))

/-- The GetValues request for slot `k`: `frame(DEV_INV, n, CMD_VAL_BASE + k, [])` (R233). -/
def requestValue (k : Nat) (n : Byte) (s : State) : Result :=
  whenLive s (.next (commit s.params.devInv n (s.params.cmdVal k) [] s))

/-- TX_GETVAL_0 (PWR) (R233). -/
def execTxGetval0 (n : Byte) (s : State) : Result := requestValue 0 n s

/-- TX_GETVAL_1 (E_TOT) (R234). -/
def execTxGetval1 (n : Byte) (s : State) : Result := requestValue 1 n s

/-- TX_GETVAL_2 (E_DAY) (R235). -/
def execTxGetval2 (n : Byte) (s : State) : Result := requestValue 2 n s

/-- TX_GETVAL_3 (E_YEAR) (R236). -/
def execTxGetval3 (n : Byte) (s : State) : Result := requestValue 3 n s

/-- TX_GETVAL_4 (IAC) (R237). -/
def execTxGetval4 (n : Byte) (s : State) : Result := requestValue 4 n s

/-- TX_GETVAL_5 (VAC) (R238). -/
def execTxGetval5 (n : Byte) (s : State) : Result := requestValue 5 n s

/-- TX_GETVAL_6 (FAC) (R239). -/
def execTxGetval6 (n : Byte) (s : State) : Result := requestValue 6 n s

/-- TX_GETVAL_7 (IDC) (R240). -/
def execTxGetval7 (n : Byte) (s : State) : Result := requestValue 7 n s

/-- TX_GETVAL_8 (VDC) (R241). -/
def execTxGetval8 (n : Byte) (s : State) : Result := requestValue 8 n s

/-- TX_AEF: `frame(0x00, 0x00, CMD_AEF, [p1, p2])`, ten bytes (R242, R102). -/
def execTxAef (p1 p2 : Byte) (s : State) : Result :=
  whenLive s (.next (commit 0#8 0#8 s.params.cmdAef [p1, p2] s))

end Sys2Proof.Machine
end

