-- ==== Sys2Proof/Machine/Sequencer.lean ====
section
/-! DEFINITION. TICK (spec/43_command_sequencer.md R220 to R224): the watchdog, then the reply timeout or the next request. -/

namespace Sys2Proof.Machine

/-- timeout_check (R221). -/
def timeoutCheck (s : State) : Result :=
  if Config.pTimeoutMs ≤ (elapsed s.now s.sqSendTime).toNat then timeout s else .next s

/-- Puts the sequencer at the start of a sequence of the given command (R222). -/
def beginSequence (c : CmdKind) (p1 p2 : Option Byte) (s : State) : State :=
  { s with sqCur := c, sqP1 := p1, sqP2 := p2, sqSeqComplete := false, sqValIdx := 0 }

/-- sequence_start (R222): a queued command, else the idle one. -/
def sequenceStart (s : State) : Option State :=
  if 0 < s.qCount then
    match dequeue s with
    | some (e, s') => some (beginSequence e.kind.cmd e.p1 e.p2 s')
    | none => none
  else some (beginSequence s.sqIdleNext.cmd none none s)

/-- The GetValues request of the slot the sweep stands at, R233 + `sq_valIdx` (R223). -/
def issueValue (n : Byte) (s : State) : Result :=
  match s.sqValIdx with
  | 0 => execTxGetval0 n s
  | 1 => execTxGetval1 n s
  | 2 => execTxGetval2 n s
  | 3 => execTxGetval3 n s
  | 4 => execTxGetval4 n s
  | 5 => execTxGetval5 n s
  | 6 => execTxGetval6 n s
  | 7 => execTxGetval7 n s
  | 8 => execTxGetval8 n s
  | _ => .fault .slotIndex

/-- issue: the request of `sq_cur` (R223). -/
def issue (dom : BitVec 5) (s : State) : Result :=
  match s.sqCur with
  | .gv => execTxGetversion s
  | .gdt =>
    match devTarget s with
    | some n => execTxGetdevtype n s
    | none => .fault .activeIndex
  | .gai => execTxGetactive s
  | .gval =>
    match valTarget s with
    | some n => issueValue n s
    | none => .fault .activeIndex
  | .aef => execTxAef (aefP1 dom s) (aefP2 s) s

/-- TICK with no outstanding request: start a sequence if the last one is complete, then issue (R220). -/
def issueNext (dom : BitVec 5) (s : State) : Result :=
  if s.sqSeqComplete then
    match sequenceStart s with
    | some s' => issue dom s'
    | none => .fault .queueIndex
  else issue dom s

/-- TICK after its watchdog (R220). -/
def sequencerTick (dom : BitVec 5) (s : State) : Result :=
  if s.sqAwaiting then timeoutCheck s else issueNext dom s

/-- TICK (R220); `dom` = 0 is refused (R113). -/
def execTick (dom : BitVec 5) (s : State) : Result :=
  whenLive s (if dom = 0#5 then .refused .tickDom else sequencerTick dom (watchdog s))

end Sys2Proof.Machine
end

