-- ==== Sys2Proof/Machine/Dispatch.lean ====
section
/-! DEFINITION. The meaning of every instruction: one arm per constructor, each one direct call. -/

namespace Sys2Proof.Machine

def exec (i : Instr) (s : State) : Host.Outcome State Fault Refusal :=
  match i with
  | .reset invCount autoAef debug => Sys2Proof.Machine.execReset invCount autoAef debug s
  | .rxByte b => Sys2Proof.Machine.execRxByte b s
  | .rxIdle => Sys2Proof.Machine.execRxIdle s
  | .tick dom => Sys2Proof.Machine.execTick dom s
  | .enqGv => Sys2Proof.Machine.execEnqGv s
  | .enqGdt => Sys2Proof.Machine.execEnqGdt s
  | .enqGai => Sys2Proof.Machine.execEnqGai s
  | .enqAef p1 p2 => Sys2Proof.Machine.execEnqAef p1 p2 s
  | .setDebug level => Sys2Proof.Machine.execSetDebug level s
  | .lineOpen => Sys2Proof.Machine.execLineOpen s
  | .txGetversion => Sys2Proof.Machine.execTxGetversion s
  | .txGetdevtype n => Sys2Proof.Machine.execTxGetdevtype n s
  | .txGetactive => Sys2Proof.Machine.execTxGetactive s
  | .txGetval0 n => Sys2Proof.Machine.execTxGetval0 n s
  | .txGetval1 n => Sys2Proof.Machine.execTxGetval1 n s
  | .txGetval2 n => Sys2Proof.Machine.execTxGetval2 n s
  | .txGetval3 n => Sys2Proof.Machine.execTxGetval3 n s
  | .txGetval4 n => Sys2Proof.Machine.execTxGetval4 n s
  | .txGetval5 n => Sys2Proof.Machine.execTxGetval5 n s
  | .txGetval6 n => Sys2Proof.Machine.execTxGetval6 n s
  | .txGetval7 n => Sys2Proof.Machine.execTxGetval7 n s
  | .txGetval8 n => Sys2Proof.Machine.execTxGetval8 n s
  | .txAef p1 p2 => Sys2Proof.Machine.execTxAef p1 p2 s
  | .rxVersion dev num pl => Sys2Proof.Machine.execRxVersion dev num pl s
  | .rxDevtype dev num pl => Sys2Proof.Machine.execRxDevtype dev num pl s
  | .rxActive dev num pl => Sys2Proof.Machine.execRxActive dev num pl s
  | .rxVal0 dev num pl => Sys2Proof.Machine.execRxVal0 dev num pl s
  | .rxVal1 dev num pl => Sys2Proof.Machine.execRxVal1 dev num pl s
  | .rxVal2 dev num pl => Sys2Proof.Machine.execRxVal2 dev num pl s
  | .rxVal3 dev num pl => Sys2Proof.Machine.execRxVal3 dev num pl s
  | .rxVal4 dev num pl => Sys2Proof.Machine.execRxVal4 dev num pl s
  | .rxVal5 dev num pl => Sys2Proof.Machine.execRxVal5 dev num pl s
  | .rxVal6 dev num pl => Sys2Proof.Machine.execRxVal6 dev num pl s
  | .rxVal7 dev num pl => Sys2Proof.Machine.execRxVal7 dev num pl s
  | .rxVal8 dev num pl => Sys2Proof.Machine.execRxVal8 dev num pl s
  | .rxAef dev num pl => Sys2Proof.Machine.execRxAef dev num pl s
  | .rxProtocolError dev num pl => Sys2Proof.Machine.execRxProtocolError dev num pl s
  | .rxErrorState dev num pl => Sys2Proof.Machine.execRxErrorState dev num pl s

end Sys2Proof.Machine
end

