-- ==== Sys2Proof/Machine/Fetch.lean ====
section
/-! DEFINITION. How the block comes by its next instruction: the input port (spec/10_state.md R55, R56), and how the state is
placed so that the next step runs a given row of the table (log entries 5 and 10). The block has no program counter and
fetches no program (R31). -/

namespace Sys2Proof.Machine

/-- The state in which a transaction is run: it is taken from the input port, its timestamp is the step's, and the step's
output list is empty (R56, R57). -/
def accepted (t : Txn) (rest : List Txn) (s : State) : State := { s with inq := rest, now := t.now, outp := [] }

/-- Between transactions the block holds its state (spec/60_exceptions.md R348); the step has no output. (log entry 6) -/
def idle (s : State) : State := { s with outp := [] }

/-- Puts a transaction word at the head of the input port, stamped with the current time. -/
def deliver (w : Word32) (s : State) : State := { s with inq := Txn.mk s.now w :: s.inq }

/-- Places the sequencer where its next TICK sends the request of the command `c` (R223). -/
def atIssue (c : CmdKind) (s : State) : State :=
  { s with sqCur := c, sqAwaiting := false, sqSeqComplete := false }

/-- Places the sequencer where its next TICK sends the GetValues request of slot `k` to the address `n` (R223, R233). -/
def atIssueValue (k : Nat) (n : Byte) (s : State) : State :=
  { atIssue .gval s with
    sqValIdx := k, sqNActive := max 1 s.sqNActive, sqInvCursor := 0, sqActive := s.sqActive.set 0 n }

/-- Places the state where a TICK runs the given request. -/
def placeRequest (i : Instr) (s : State) : State :=
  match i with
  | .txGetversion => atIssue .gv s
  | .txGetdevtype n => { atIssue .gdt s with
      sqNActive := max 1 s.sqNActive, sqInvCursor := 0, sqActive := s.sqActive.set 0 n }
  | .txGetactive => atIssue .gai s
  | .txGetval0 n => atIssueValue 0 n s
  | .txGetval1 n => atIssueValue 1 n s
  | .txGetval2 n => atIssueValue 2 n s
  | .txGetval3 n => atIssueValue 3 n s
  | .txGetval4 n => atIssueValue 4 n s
  | .txGetval5 n => atIssueValue 5 n s
  | .txGetval6 n => atIssueValue 6 n s
  | .txGetval7 n => atIssueValue 7 n s
  | .txGetval8 n => atIssueValue 8 n s
  | .txAef p1 p2 => { atIssue .aef s with sqP1 := some p1, sqP2 := some p2 }
  | _ => s

/-- The outstanding request that a reply with these fields answers (R250). -/
def awaitingReply (c : CmdKind) (cmd num : Byte) (s : State) : State :=
  { s with
    sqCur := c, sqAwaiting := true, sqSendTime := s.now, sqOutCmd := cmd, sqOutNum := num, sqSeqComplete := false }

/-- The outstanding GetValues request for slot `k` that a value reply answers; none for an address the table does not
have, since no such request is ever sent (R51 item 4). -/
def awaitingValue (k : Nat) (num : Byte) (s : State) : State :=
  if num = 0#8 ∨ s.params.maxInv < num.toNat then s
  else
    { awaitingReply .gval (s.params.cmdVal k) num s with
      sqValIdx := k, sqNActive := max 1 s.sqNActive, sqInvCursor := 0, sqActive := s.sqActive.set 0 num }

/-- Places the outstanding request of an inbound frame. -/
def placeOutstanding (i : Instr) (s : State) : State :=
  match i with
  | .rxVersion _ num _ => awaitingReply .gv s.params.cmdGv num s
  | .rxDevtype _ num _ => awaitingReply .gdt s.params.cmdGdt num s
  | .rxActive _ num _ => awaitingReply .gai s.params.cmdGai num s
  | .rxVal0 _ num _ => awaitingValue 0 num s
  | .rxVal1 _ num _ => awaitingValue 1 num s
  | .rxVal2 _ num _ => awaitingValue 2 num s
  | .rxVal3 _ num _ => awaitingValue 3 num s
  | .rxVal4 _ num _ => awaitingValue 4 num s
  | .rxVal5 _ num _ => awaitingValue 5 num s
  | .rxVal6 _ num _ => awaitingValue 6 num s
  | .rxVal7 _ num _ => awaitingValue 7 num s
  | .rxVal8 _ num _ => awaitingValue 8 num s
  | .rxAef _ num _ => awaitingReply .aef s.params.cmdAef num s
  | _ => s

/-- The Frame Assembler one byte short of the given frame (R146). -/
def atLastByte (bytes : List Byte) (s : State) : State :=
  { s with faBuf := bytes.dropLast ++ s.faBuf.drop (bytes.length - 1), faPos := bytes.length - 1 }

/-- Places a frame of the table: a request is left to the next TICK, a reply to the RX_BYTE of its last byte. -/
def placeFrame (bytes : List Byte) (s : State) : State :=
  match decodeOutbound s.params bytes with
  | .ok i => deliver (txnWord (.tick 1#5)) (placeRequest i s)
  | .error _ =>
    match decodeInbound s.params bytes with
    | .ok i => deliver (txnWord (.rxByte (bytes.getLastD 0#8))) (atLastByte bytes (placeOutstanding i s))
    | .error _ => s

/-- Places the row with the given table number: a transaction at the input port, or a frame. -/
def placeWord (nbits w : Nat) (s : State) : State :=
  if nbits ≤ 32 then deliver (BitVec.ofNat 32 w) s else placeFrame (tableFrame nbits w) s

end Sys2Proof.Machine
end

