-- ==== Sys2Proof/Machine/Step.lean ====
section
/-! DEFINITION. One step of the block: exactly one input transaction (spec/00_scope.md R7). -/

namespace Sys2Proof.Machine

/-- One step: the oldest waiting transaction is decoded and run; with none waiting the block holds its state. -/
def step (s : State) : Host.Outcome State Fault Refusal :=
  match s.inq with
  | [] => .next (idle s)
  | t :: rest =>
    match decodeTxn t.op with
    | .ok i => exec i (accepted t rest s)
    | .error e => .refused (.undecodable e)

/-- The state whose very next step runs the row with the given table number (log entry 10). -/
def State.withFetchWord (s : State) (nbits w : Nat) : State := placeWord nbits w s

end Sys2Proof.Machine
end

