-- ==== Sys2Proof/Safety.lean ====
section
/-! DEFINITION. What counts as a safe state and a safe run, in the terms the claims use: the invariants of spec/10_state.md R51 with
the ranges of R32 to R48, said of a state; and the readings of the state that claims speak of (the queue as a list, the
delivery of several bytes). -/

namespace Sys2Proof.Machine

/-! ## The invariant -/

/-- The internal memories have the sizes of R54. -/
abbrev State.ArraysWf (s : State) : Prop :=
  s.faBuf.length = s.params.bufSize ∧ s.sqActive.length = s.params.maxInv ∧
    s.mtVal.length = s.params.maxInv ∧ (∀ row ∈ s.mtVal, row.length = Config.pNSlots) ∧
    s.mtRej.length = s.params.maxInv ∧ (∀ row ∈ s.mtRej, row.length = Config.pNSlots) ∧
    s.qEnt.length = s.params.qCap

/-- The configuration registers hold legal values (R48). -/
abbrev State.ConfigWf (s : State) : Prop :=
  1 ≤ s.cfgInvCount.toNat ∧ s.cfgInvCount.toNat ≤ s.params.maxInv ∧ s.cfgDebug ≠ 3#2

/-- The Frame Assembler's position and buffer (R32, R51 item 8), and the sync bytes a candidate frame begins with (R141,
R152). -/
abbrev State.AssemblerWf (s : State) : Prop :=
  s.faPos ≤ s.params.bufSize ∧
    (∀ i < 3, i < s.faPos → s.faBuf[i]? = some Config.pSync) ∧
    (4 ≤ s.faPos →
      (s.faBuf.getD 3 0#8).toNat ≤ s.params.maxInv ∧ s.faPos ≤ (s.faBuf.getD 3 0#8).toNat + 7)

/-- The discovery list and its cursor (R42, R51 items 3 and 4). -/
abbrev State.DiscoveryWf (s : State) : Prop :=
  s.sqNActive ≤ s.params.maxInv ∧ (0 < s.sqNActive → s.sqInvCursor < s.sqNActive) ∧
    (s.sqNActive = 0 → s.sqInvCursor = 0) ∧
    ∀ i < s.sqNActive, 1 ≤ (s.sqActive.getD i 0#8).toNat ∧ (s.sqActive.getD i 0#8).toNat ≤ s.cfgInvCount.toNat

/-- The CMD byte of the sequencer's request for a command, at slot `k` for GetValues (R230 to R242). -/
def requestCmd (p : Params) (k : Nat) : CmdKind → Byte
  | .gv => p.cmdGv
  | .gdt => p.cmdGdt
  | .gai => p.cmdGai
  | .gval => p.cmdVal k
  | .aef => p.cmdAef

/-- The sequencer's position (R51 items 2, 7 and 9; R38), and the outstanding request: its CMD is that of the current
sequence, and a GetValues request went to the inverter under the cursor (R224, R233). -/
abbrev State.SequencerWf (s : State) : Prop :=
  s.sqValIdx ≤ Config.pNSlots ∧ (s.sqIdleNext = .gval → 0 < s.sqNActive) ∧
    (s.sqAwaiting = true → s.sqSeqComplete = false) ∧
    (s.sqCur = .gval → s.sqSeqComplete = false → s.sqValIdx < Config.pNSlots ∧ 0 < s.sqNActive) ∧
    (s.sqAwaiting = true → s.sqOutCmd = requestCmd s.params s.sqValIdx s.sqCur) ∧
    (s.sqAwaiting = true → s.sqCur = .gval → valTarget s = some s.sqOutNum)

/-- The queue's counters (R47, R51 item 5). -/
abbrev State.QueueWf (s : State) : Prop :=
  s.qCount ≤ s.params.qCap ∧ s.qHead < s.params.qCap ∧ s.qTail < s.params.qCap ∧
    s.qHead = (s.qTail + s.qCount) % s.params.qCap

/-- The invariant of a block: legal parameters, and once it has been RESET, R51. Before the first RESET every field is
unspecified (R49). -/
abbrev State.Inv (s : State) : Prop :=
  s.params.Wf ∧
    (s.sysLive = true →
      s.ArraysWf ∧ s.ConfigWf ∧ s.AssemblerWf ∧ s.DiscoveryWf ∧ s.SequencerWf ∧ s.QueueWf)

/-! ## Safe outcomes -/

/-- The outcome is no fault. -/
def NoFault (r : Result) : Prop := ∀ f, r ≠ .fault f

/-- The outcome is a next state. -/
def Completes (r : Result) : Prop := ∃ s', r = .next s'

/-! ## Readings of the state -/

/-- The entries the queue holds, oldest first (R303). -/
def queued (s : State) : List (Option QEntry) :=
  (List.range s.qCount).map fun i => s.qEnt[(s.qTail + i) % s.params.qCap]?

/-- The inverters the sequencer knows, in reply order (R42). -/
def activeList (s : State) : List Byte := s.sqActive.take s.sqNActive

/-- Several RX_BYTE transactions one after another, their records collected (R151). -/
def feed : List Byte → State → Result
  | [], s => .next s
  | b :: bs, s =>
    match execRxByte b s with
    | .next s' => feed bs s'
    | .fault f => .fault f
    | .refused r => .refused r

/-- The transactions that R113 refuses, on the number `w` of the word: the fields are quotients and remainders, and since R112
lists the low bits of each transaction, a bit it does not list is 1 exactly when the number is too large. -/
def IllegalTxn (s : State) (w : Nat) : Prop :=
  (w % 16 = 0 ∧
      (2 ^ 15 ≤ w ∨ w / 16 % 256 = 0 ∨ s.params.maxInv < w / 16 % 256 ∨ w / 2 ^ 13 % 4 = 3)) ∨
    (w % 16 = 1 ∧ 2 ^ 12 ≤ w) ∨
    (w % 16 = 2 ∧ 2 ^ 4 ≤ w) ∨
    (w % 16 = 3 ∧ (2 ^ 9 ≤ w ∨ w / 16 % 32 = 0)) ∨
    (w % 16 = 4 ∧
      (2 ^ 24 ≤ w ∨ (w / 16 % 4 ≠ 3 ∧ (w / 64 % 2 = 1 ∨ w / 128 % 2 = 1)) ∨ (w / 128 % 2 = 1 ∧ w / 64 % 2 = 0) ∨
        (w / 64 % 2 = 0 ∧ w / 2 ^ 8 % 256 ≠ 0) ∨ (w / 128 % 2 = 0 ∧ w / 2 ^ 16 % 256 ≠ 0))) ∨
    (w % 16 = 5 ∧ (2 ^ 6 ≤ w ∨ w / 16 % 4 = 3)) ∨
    (w % 16 = 6 ∧ 2 ^ 4 ≤ w) ∨
    7 ≤ w % 16 ∨
    (w % 16 ≠ 0 ∧ s.sysLive = false)

/-- The NO_DATA record that a TICK emits first, if it is due (R341). -/
def noDataRecords (s : State) : List Record :=
  if s.wdReported = false ∧ s.params.noDataMs ≤ (s.now - s.wdLastRx).toNat then
    [.log .warn 0x06#8 (.noData (s.now - s.wdLastRx))]
  else []

/-- The request that R223 has a TICK send in the state `s`, with its operands (R231, R233, R242). -/
def pendingRequest (dom : BitVec 5) (s : State) : Instr :=
  match s.sqCur with
  | .gv => .txGetversion
  | .gdt => .txGetdevtype (if 0 < s.sqNActive then s.sqActive.getD s.sqInvCursor 0#8 else 1#8)
  | .gai => .txGetactive
  | .gval => txGetvalInstr s.sqValIdx (s.sqActive.getD s.sqInvCursor 0#8)
  | .aef =>
    .txAef
      (match s.sqP1 with
        | some b => b
        | none => if 1 < s.cfgInvCount.toNat then BitVec.ofNat 8 dom.toNat else s.params.aefP1Single)
      (match s.sqP2 with
        | some b => b
        | none => s.params.aefP2Default)

/-- The inverter under the cursor (R42); 0 if there is none. -/
def cursorAddr (s : State) : Byte := s.sqActive.getD s.sqInvCursor 0#8

/-- The REPORT record of the inverter `a` (R60). -/
def reportOf (s : State) (a : Byte) : Record := .report a ((valRow s a).getD [])

/-- The state after the exchange in progress has failed, the records `recs` first: a sweep skips the slot, and at slot 8
reports and moves on to the next inverter; an activation is reported as failed; a failed discovery keeps the list and
discovery comes next; every sequence but a sweep short of its end is complete (R270 to R273, R259). -/
def failedExchange (recs : List Record) (s : State) : State :=
  match s.sqCur with
  | .gval =>
    if s.sqValIdx = 8 then
      { s with
        sqAwaiting := false, sqValIdx := 9, sqInvCursor := (s.sqInvCursor + 1) % s.sqNActive, sqIdleNext := .gai,
        sqSeqComplete := true, outp := s.outp ++ recs ++ [reportOf s (cursorAddr s)] }
    else { s with sqAwaiting := false, sqValIdx := s.sqValIdx + 1, outp := s.outp ++ recs }
  | .aef =>
    { s with
      sqAwaiting := false, sqAef := .complete, sqSeqComplete := true,
      outp := s.outp ++ recs ++ [.log .warn 0x37#8 (.aefResult false (decide (s.sqAef = .init)))] }
  | .gai => { s with sqAwaiting := false, sqIdleNext := .gai, sqSeqComplete := true, outp := s.outp ++ recs }
  | .gv => { s with sqAwaiting := false, sqSeqComplete := true, outp := s.outp ++ recs }
  | .gdt => { s with sqAwaiting := false, sqSeqComplete := true, outp := s.outp ++ recs }

/-- The frame with this CMD and NUM answers the outstanding request (R250). -/
abbrev Answers (s : State) (num cmd : Byte) : Prop :=
  s.sqAwaiting = true ∧ cmd = s.sqOutCmd ∧ num = s.sqOutNum

/-- Two states agree on every sequencer, table and queue field (R35 to R47). -/
def SameSequencer (s t : State) : Prop :=
  t.sqCur = s.sqCur ∧ t.sqP1 = s.sqP1 ∧ t.sqP2 = s.sqP2 ∧ t.sqIdleNext = s.sqIdleNext ∧ t.sqValIdx = s.sqValIdx ∧
    t.sqAwaiting = s.sqAwaiting ∧ t.sqSendTime = s.sqSendTime ∧ t.sqOutCmd = s.sqOutCmd ∧ t.sqOutNum = s.sqOutNum ∧
    t.sqSeqComplete = s.sqSeqComplete ∧ t.sqNActive = s.sqNActive ∧ t.sqActive = s.sqActive ∧
    t.sqInvCursor = s.sqInvCursor ∧ t.sqAef = s.sqAef ∧ t.sqZeroWarned = s.sqZeroWarned ∧ t.mtVal = s.mtVal ∧
    t.mtRej = s.mtRej ∧ t.qEnt = s.qEnt ∧ t.qHead = s.qHead ∧ t.qTail = s.qTail ∧ t.qCount = s.qCount

/-- A FRAME record. -/
def Record.isFrame : Record → Bool
  | .frame _ => true
  | _ => false

/-- A TX record. -/
def Record.isTx : Record → Bool
  | .tx _ => true
  | _ => false

end Sys2Proof.Machine
end

