-- ==== Sys2Proof/Certificates/Slice0/Obligations.lean ====
section
/-! DEFINITION. The statements for the provers. Rules R<n> are those of spec/. -/

open Sys2Proof Sys2Proof.Machine

/-! ## Encoding -/

/-- Decoding an encoded well-formed instruction gives it back, for every instruction and every legal parameter binding
(R100, R101, R104, R105, R112, R230 to R242). -/
def Obligations.DecodeEncodeRoundTrip : Prop :=
  ∀ (p : Params) (i : Instr), p.Wf → wellFormed p i = true → decode p (encode p i) = .ok i

/-- A transaction word that decodes is the encoding of what it decodes to: no two words mean the same (R112: every bit not
listed must be 0). -/
def Obligations.TransactionWordsHaveOneMeaning : Prop :=
  ∀ (p : Params) (w : Word32) (i : Instr), decodeTxn w = .ok i → encode p i = .word w

/-- The example words of R114, and one frame of each of the other surfaces (R230, R280). The two frames are decoded in the
test binding, which is the model's choice (log entry 1), and the reply's CMD byte 0x10 rests on its command codes, which are
presumed (log entry 13). -/
def Obligations.ExampleWordsDecode : Prop :=
  decodeTxn 0x00002030#32 = .ok (.reset 3#8 false 1#2) ∧
    decodeTxn 0x00000801#32 = .ok (.rxByte 0x80#8) ∧
    decodeTxn 0x000000B3#32 = .ok (.tick 11#5) ∧
    decodeTxn 0x001F05F4#32 = .ok (.enqAef (some 5#8) (some 0x1F#8)) ∧
    decodeTxn 0x00000025#32 = .ok (.setDebug 2#2) ∧
    decodeTxn 0x00000006#32 = .ok .lineOpen ∧
    decodeOutbound Config.testBinding [0x80#8, 0x80#8, 0x80#8, 0#8, 0#8, 0#8, 1#8, 1#8] = .ok .txGetversion ∧
    decodeInbound Config.testBinding
        [0x80#8, 0x80#8, 0x80#8, 3#8, 1#8, 1#8, 0x10#8, 0x0B#8, 0xB8#8, 0#8, 0xD8#8] =
      .ok (.rxVal0 1#8 1#8 [0x0B#8, 0xB8#8, 0#8])

/-! ## Steps -/

/-- A step takes the oldest waiting transaction, stamps the state with its `now`, empties the output list and runs the
decoded instruction (R7, R56, R57). The list of waiting transactions and the output list are the model's ports (log entry
5). -/
def Obligations.StepRunsDecodedTransaction : Prop :=
  ∀ (s : State) (t : Txn) (rest : List Txn) (i : Instr), s.inq = t :: rest → decodeTxn t.op = .ok i →
    step s = exec i { s with inq := rest, now := t.now, outp := [] }

/-- A step is refused exactly when R113 refuses the transaction. -/
def Obligations.StepRefusesExactlyIllegalTransactions : Prop :=
  ∀ (s : State) (t : Txn) (rest : List Txn), s.Inv → s.inq = t :: rest →
    ((∃ r, step s = .refused r) ↔ IllegalTxn s t.op.toNat)

/-- Every legal transaction has a successor: from a state that meets the invariant no step faults (R335). -/
def Obligations.LegalTransactionsComplete : Prop :=
  ∀ (s : State) (t : Txn) (rest : List Txn), s.Inv → s.inq = t :: rest → ¬ IllegalTxn s t.op.toNat →
    ∃ s', step s = .next s'

/-- Every step keeps the invariant: R51 with the ranges of R32 to R48. -/
def Obligations.StepKeepsInvariant : Prop := ∀ s s' : State, s.Inv → step s = .next s' → s'.Inv

/-- An ill-formed instruction is refused by its meaning (R113 on the operands of a transaction; R109 and R144 on an inbound
frame the assembler never validates: that refusal is the model's choice, log entry 8). -/
def Obligations.IllFormedInstructionsAreRefused : Prop :=
  ∀ (i : Instr) (s : State), s.sysLive = true → wellFormed s.params i = false → ∃ r, exec i s = .refused r

/-- The state after reset meets the invariant. The operands and parameters it stands for are the model's choice (log
entries 1, 2 and 4). -/
def Obligations.ResetStateMeetsInvariant : Prop := State.reset.Inv

/-- Before the first RESET every instruction but RESET is refused. For the transactions that is R49 and R361; that the rows
TX_* and RX_*, which are no transactions, are refused too is the model's choice (log entry 16). -/
def Obligations.NotLiveRefusesAllButReset : Prop :=
  ∀ (i : Instr) (s : State), s.sysLive = false → (∀ ic a d, i ≠ .reset ic a d) → exec i s = .refused .notLive

/-- No step changes the parameters; only RESET changes `cfg_invCount` and `cfg_autoAef`; only RESET and SET_DEBUG change
`cfg_debug` (R48, R373). -/
def Obligations.OnlyControlTransactionsConfigure : Prop :=
  ∀ (s s' : State) (t : Txn) (rest : List Txn) (i : Instr), s.inq = t :: rest → decodeTxn t.op = .ok i →
    step s = .next s' →
    s'.params = s.params ∧ s'.inq = rest ∧ s'.now = t.now ∧
      ((∀ ic a d, i ≠ .reset ic a d) →
        s'.sysLive = s.sysLive ∧ s'.cfgInvCount = s.cfgInvCount ∧ s'.cfgAutoAef = s.cfgAutoAef ∧
          ((∀ l, i ≠ .setDebug l) → s'.cfgDebug = s.cfgDebug))

/-- A step that sends a request is a TICK, found no request outstanding, and sends exactly one (R223, R370). -/
def Obligations.RequestsGoOutOnlyOnTick : Prop :=
  ∀ (s s' : State) (t : Txn) (rest : List Txn), s.inq = t :: rest → step s = .next s' →
    (∃ r ∈ s'.outp, r.isTx = true) →
    (∃ dom, decodeTxn t.op = .ok (.tick dom)) ∧ s.sqAwaiting = false ∧ (s'.outp.filter Record.isTx).length = 1

/-! ## Control transactions -/

/-- RESET with legal operands sets every field as the table of R50, from every state; `fa_buf` and `q_ent`, which the table
leaves unspecified, have their sizes (R54). -/
def Obligations.ResetSetsEveryField : Prop :=
  ∀ (invCount : Byte) (autoAef : Bool) (debug : BitVec 2) (s : State),
    1 ≤ invCount.toNat → invCount.toNat ≤ s.params.maxInv → debug ≠ 3#2 →
    ∃ t, exec (.reset invCount autoAef debug) s = .next t ∧
      t.params = s.params ∧ t.inq = s.inq ∧ t.now = s.now ∧ t.outp = s.outp ∧
      t.sysLive = true ∧ t.cfgInvCount = invCount ∧ t.cfgAutoAef = autoAef ∧ t.cfgDebug = debug ∧
      t.faPos = 0 ∧ t.faBuf.length = s.params.bufSize ∧ t.faSyncErrs = 0#32 ∧ t.wdLastRx = s.now ∧
      t.wdReported = false ∧ t.sqCur = (if autoAef then .aef else .gai) ∧ t.sqP1 = none ∧ t.sqP2 = none ∧
      t.sqIdleNext = .gai ∧ t.sqValIdx = 0 ∧ t.sqAwaiting = false ∧ t.sqSendTime = 0#32 ∧ t.sqOutCmd = 0#8 ∧
      t.sqOutNum = 0#8 ∧ t.sqSeqComplete = !autoAef ∧ t.sqNActive = 0 ∧ t.sqInvCursor = 0 ∧
      t.sqActive = List.replicate s.params.maxInv 0#8 ∧ t.sqAef = .init ∧ t.sqZeroWarned = false ∧
      t.mtVal = List.replicate s.params.maxInv (List.replicate 9 0#64) ∧
      t.mtRej = List.replicate s.params.maxInv (List.replicate 9 0#2) ∧
      t.qEnt.length = s.params.qCap ∧ t.qHead = 0 ∧ t.qTail = 0 ∧ t.qCount = 0

/-- Nothing survives a RESET: from two states of one block at one time, the states after it differ at most in the ports
(R360). That `fa_buf` and `q_ent`, which R50 leaves unspecified, are equal too is the model's choice (log entry 3). -/
def Obligations.ResetForgetsTheState : Prop :=
  ∀ (invCount : Byte) (autoAef : Bool) (debug : BitVec 2) (s s' t t' : State),
    s'.params = s.params → s'.now = s.now →
    exec (.reset invCount autoAef debug) s = .next t → exec (.reset invCount autoAef debug) s' = .next t' →
    t' = { t with inq := s'.inq, outp := s'.outp }

/-- RESET with legal operands leaves a state that meets the invariant (R51: every state reachable from RESET). -/
def Obligations.ResetEstablishesInvariant : Prop :=
  ∀ (invCount : Byte) (autoAef : Bool) (debug : BitVec 2) (s t : State), s.params.Wf →
    exec (.reset invCount autoAef debug) s = .next t → t.Inv

/-- SET_DEBUG with a legal level, at its place in the word, sets `cfg_debug` and nothing else (R309). -/
def Obligations.SetDebugSetsLevel : Prop :=
  ∀ (level : BitVec 2) (s : State), s.sysLive = true → level ≠ 3#2 →
    decodeTxn (0#26 ++ level ++ 0x5#4) = .ok (.setDebug level) ∧
      exec (.setDebug level) s = .next { s with cfgDebug := level }

/-- ENQ, its kind and parameters at their places in the word, appends its entry at `q_head` if the queue has room, answers OK
and changes nothing else (R300). -/
def Obligations.EnqueueAppends : Prop :=
  (decodeTxn 0x04#32 = .ok .enqGv ∧ decodeTxn 0x14#32 = .ok .enqGdt ∧ decodeTxn 0x24#32 = .ok .enqGai ∧
      decodeTxn 0x34#32 = .ok (.enqAef none none) ∧
      ∀ p1 p2 : Byte,
        decodeTxn (0#16 ++ p1 ++ 0x74#8) = .ok (.enqAef (some p1) none) ∧
          decodeTxn (0#8 ++ p2 ++ p1 ++ 0xF4#8) = .ok (.enqAef (some p1) (some p2))) ∧
  ∀ (s : State), s.sysLive = true → s.qCount < s.params.qCap →
    let after := fun (e : QEntry) =>
      { s with
        qEnt := s.qEnt.set s.qHead e, qHead := (s.qHead + 1) % s.params.qCap, qCount := s.qCount + 1,
        outp := s.outp ++ [.qresp .ok] }
    exec .enqGv s = .next (after (QEntry.mk .gv none none)) ∧
      exec .enqGdt s = .next (after (QEntry.mk .gdt none none)) ∧
      exec .enqGai s = .next (after (QEntry.mk .gai none none)) ∧
      ∀ p1 p2 : Option Byte, (p2.isSome = true → p1.isSome = true) →
        exec (.enqAef p1 p2) s = .next (after (QEntry.mk .aef p1 p2))

/-- ENQ on a full queue logs QUEUE_FULL, answers FULL and leaves everything else unchanged (R301). -/
def Obligations.FullQueueDropsRequest : Prop :=
  ∀ (s : State), s.sysLive = true → s.qCount = s.params.qCap →
    let after := fun (k : QKind) =>
      { s with outp := s.outp ++ [.log .warn 0x40#8 (.queueFull k), .qresp .full] }
    exec .enqGv s = .next (after .gv) ∧ exec .enqGdt s = .next (after .gdt) ∧ exec .enqGai s = .next (after .gai) ∧
      ∀ p1 p2 : Option Byte, (p2.isSome = true → p1.isSome = true) → exec (.enqAef p1 p2) s = .next (after .aef)

/-- The ring is a queue: an accepted ENQ puts its entry behind all waiting ones, and a dequeue takes the oldest and leaves
the others in order (R303). -/
def Obligations.QueueIsFifo : Prop :=
  ∀ (s : State), s.QueueWf → s.qEnt.length = s.params.qCap →
    (∀ k p1 p2, s.qCount < s.params.qCap → queued (enqueue k p1 p2 s) = queued s ++ [some (QEntry.mk k p1 p2)]) ∧
      (∀ k p1 p2, s.qCount = s.params.qCap → queued (enqueue k p1 p2 s) = queued s) ∧
      (0 < s.qCount → ∃ e s', dequeue s = some (e, s') ∧ queued s = some e :: queued s')

/-! ## The Frame Assembler -/

/-- RX_BYTE at positions 0 to 2: the sync byte is stored; any other byte is counted, discards the candidate, and is logged
at the first and every 100th occurrence (R141, R142). No other instruction but RESET changes the count. -/
def Obligations.SyncPositions : Prop :=
  (∀ (b : Byte) (s : State), s.sysLive = true → s.faPos < 3 →
    (b = 0x80#8 →
        exec (.rxByte b) s =
          .next { s with
            wdLastRx := s.now, wdReported := false, faBuf := s.faBuf.set s.faPos b, faPos := s.faPos + 1,
            outp := s.outp ++ [.frame .continued] }) ∧
      (b ≠ 0x80#8 →
        exec (.rxByte b) s =
          .next { s with
            wdLastRx := s.now, wdReported := false, faSyncErrs := s.faSyncErrs + 1#32, faPos := 0,
            outp := s.outp ++ [.frame (.discard .badSync)] ++
              (if (s.faSyncErrs + 1#32).toNat = 1 ∨
                  ((s.faSyncErrs + 1#32).toNat % 100 = 0 ∧ (s.faSyncErrs + 1#32).toNat ≠ 0) then
                [.log .warn 0x01#8 (.syncErr (s.faSyncErrs + 1#32) b s.faPos)]
              else []) })) ∧
    ∀ (i : Instr) (s t : State), exec i s = .next t → (∀ ic a d, i ≠ .reset ic a d) →
      t.faSyncErrs = s.faSyncErrs ∨
        ∃ b, i = .rxByte b ∧ b ≠ 0x80#8 ∧ s.faPos < 3 ∧ t.faSyncErrs = s.faSyncErrs + 1#32

/-- RX_BYTE at position 3: LEN is stored if it is at most `P_MAX_INV`, else the candidate is discarded with LEN_ERR (R143). -/
def Obligations.LengthPosition : Prop :=
  ∀ (b : Byte) (s : State), s.sysLive = true → s.faPos = 3 → 8 ≤ s.params.bufSize →
    (b.toNat ≤ s.params.maxInv →
        exec (.rxByte b) s =
          .next { s with
            wdLastRx := s.now, wdReported := false, faBuf := s.faBuf.set 3 b, faPos := 4,
            outp := s.outp ++ [.frame .continued] }) ∧
      (s.params.maxInv < b.toNat →
        exec (.rxByte b) s =
          .next { s with
            wdLastRx := s.now, wdReported := false, faPos := 0,
            outp := s.outp ++ [.frame (.discard .badLen), .log .warn 0x02#8 (.lenErr b)] })

/-- RX_BYTE with the buffer full discards the candidate with OVERFLOW; with `P_BUF_SIZE` of at least `P_MAX_INV + 8` the
buffer is never full (R144). -/
def Obligations.OverflowPosition : Prop :=
  (∀ (b : Byte) (s : State), s.sysLive = true → 3 ≤ s.faPos → s.faPos = s.params.bufSize →
    exec (.rxByte b) s =
      .next { s with
        wdLastRx := s.now, wdReported := false, faPos := 0,
        outp := s.outp ++ [.frame (.discard .overflow), .log .warn 0x04#8 (.overflow s.faPos)] }) ∧
    ∀ s : State, s.Inv → s.sysLive = true → s.params.maxInv + 8 ≤ s.params.bufSize → s.faPos < s.params.bufSize

/-- RX_BYTE in the body before the last position stores the byte, whatever it is (R145). -/
def Obligations.BodyPosition : Prop :=
  ∀ (b len : Byte) (s : State), s.sysLive = true → 4 ≤ s.faPos → s.faPos < s.params.bufSize →
    s.faBuf[3]? = some len → s.faPos < len.toNat + 7 →
    exec (.rxByte b) s =
      .next { s with
        wdLastRx := s.now, wdReported := false, faBuf := s.faBuf.set s.faPos b, faPos := s.faPos + 1,
        outp := s.outp ++ [.frame .continued] }

/-- RX_BYTE at the last position: with the checksum the assembler is back at position 0, FRAME(COMPLETE) carries the LEN + 8
bytes, and the frame's fields are dispatched (R146); with any other byte the frame is discarded with CSUM_ERR and nothing
of it reaches the sequencer (R147). -/
def Obligations.LastPosition : Prop :=
  ∀ (b len : Byte) (s : State), s.sysLive = true → s.faPos < s.params.bufSize → s.faBuf.length = s.params.bufSize →
    s.faBuf[3]? = some len → s.faPos = len.toNat + 7 →
    let sum := (((s.faBuf.drop 3).take (len.toNat + 4)).map BitVec.toNat).sum
    (b.toNat = sum % 256 →
        exec (.rxByte b) s =
          dispatch (s.faBuf.getD 4 0#8) (s.faBuf.getD 5 0#8) (s.faBuf.getD 6 0#8) ((s.faBuf.drop 7).take len.toNat)
            { s with
              wdLastRx := s.now, wdReported := false, faBuf := s.faBuf.set s.faPos b, faPos := 0,
              outp := s.outp ++ [.frame (.complete (s.faBuf.take (len.toNat + 7) ++ [b]))] }) ∧
      (b.toNat ≠ sum % 256 →
        exec (.rxByte b) s =
          .next { s with
            wdLastRx := s.now, wdReported := false, faBuf := s.faBuf.set s.faPos b, faPos := 0,
            outp := s.outp ++ [.frame (.discard .badCsum), .log .warn 0x03#8 (.csumErr (BitVec.ofNat 8 sum) b)] })

/-- The RX_BYTE that completes a frame of a class of the table runs that class's instruction, after its FRAME(COMPLETE)
record and with the assembler back at position 0 (R146, R250; log entry 8). -/
def Obligations.CompletedFrameRunsItsInstruction : Prop :=
  ∀ (b : Byte) (i : Instr) (s : State), s.Inv → s.sysLive = true →
    decodeInbound s.params (s.faBuf.take s.faPos ++ [b]) = .ok i →
    exec (.rxByte b) s =
      exec i { s with
        wdLastRx := s.now, wdReported := false, faBuf := s.faBuf.set s.faPos b, faPos := 0,
        outp := s.outp ++ [.frame (.complete (s.faBuf.take s.faPos ++ [b]))] }

/-- Every RX_BYTE emits exactly one FRAME record, and emits it first (R58, R330). -/
def Obligations.OneFrameRecordPerByte : Prop :=
  ∀ (b : Byte) (s s' : State), exec (.rxByte b) s = .next s' →
    ∃ ev rest, s'.outp = s.outp ++ .frame ev :: rest ∧ ∀ r ∈ rest, r.isFrame = false

/-- Any frame that is COMPLETE begins with three sync bytes, is LEN + 8 bytes long and carries its checksum (R152, R100,
R101). -/
def Obligations.CompleteFramesAreValid : Prop :=
  ∀ (b : Byte) (bytes : List Byte) (recs : List Record) (s s' : State), s.Inv → s.sysLive = true →
    exec (.rxByte b) s = .next s' → s'.outp = s.outp ++ .frame (.complete bytes) :: recs →
    ∃ dev num cmd pl, bytes = frame dev num cmd pl ∧ pl.length ≤ s.params.maxInv

/-- A byte that completes no frame changes no sequencer, table or queue field and no configuration (R149). -/
def Obligations.OnlyCompleteFramesReachSequencer : Prop :=
  ∀ (b : Byte) (s s' : State), exec (.rxByte b) s = .next s' →
    (∀ bytes, Record.frame (.complete bytes) ∉ s'.outp.drop s.outp.length) →
    SameSequencer s s' ∧ s'.cfgInvCount = s.cfgInvCount ∧ s'.cfgAutoAef = s.cfgAutoAef ∧ s'.cfgDebug = s.cfgDebug

/-- Feeding the bytes of a frame of legal length from the awaiting-sync state gives CONTINUE for every byte but the last,
COMPLETE with exactly those bytes at the last, and then the dispatch of the frame's fields (R140 to R146, R250). -/
def Obligations.FrameReception : Prop :=
  ∀ (dev num cmd : Byte) (pl : List Byte) (s : State), s.Inv → s.sysLive = true → s.faPos = 0 →
    pl.length ≤ s.params.maxInv → pl.length + 8 ≤ s.params.bufSize →
    feed (frame dev num cmd pl) s =
      dispatch dev num cmd pl
        { s with
          wdLastRx := s.now, wdReported := false, faPos := 0,
          faBuf := frame dev num cmd pl ++ s.faBuf.drop (pl.length + 8),
          outp := s.outp ++ List.replicate (pl.length + 7) (.frame .continued) ++
            [.frame (.complete (frame dev num cmd pl))] }

/-- Changing any one byte of a valid frame at offsets 4 to LEN + 7 to another value makes the assembler discard it for its
checksum: the last byte gives DISCARD(BAD_CSUM) and CSUM_ERR, and no sequencer, table or queue field changes (R153). -/
def Obligations.SingleByteErrorsAreDetected : Prop :=
  ∀ (dev num cmd x : Byte) (pl : List Byte) (k : Nat) (s : State), s.Inv → s.sysLive = true → s.faPos = 0 →
    pl.length ≤ s.params.maxInv → pl.length + 8 ≤ s.params.bufSize → 4 ≤ k → k ≤ pl.length + 7 →
    (frame dev num cmd pl)[k]? ≠ some x →
    ∃ s' computed received, feed ((frame dev num cmd pl).set k x) s = .next s' ∧ SameSequencer s s' ∧ s'.faPos = 0 ∧
      s'.outp = s.outp ++ List.replicate (pl.length + 7) (.frame .continued) ++
        [.frame (.discard .badCsum), .log .warn 0x03#8 (.csumErr computed received)]

/-- RX_IDLE, the word 0x2, logs ZERO_READ and writes nothing (R150). -/
def Obligations.RxIdleLogsZeroRead : Prop :=
  decodeTxn 0x2#32 = .ok .rxIdle ∧ ∀ s : State, s.sysLive = true →
    exec .rxIdle s = .next { s with outp := s.outp ++ [.log .warn 0x05#8 .zeroRead] }

/-- LINE_OPEN, the word 0x6, sets `fa_pos` to 0 and nothing else, without output (R154). -/
def Obligations.LineOpenAbandonsFrame : Prop :=
  decodeTxn 0x6#32 = .ok .lineOpen ∧ ∀ s : State, s.sysLive = true → exec .lineOpen s = .next { s with faPos := 0 }

/-! ## The Value Decoder and the Sanity Filter -/

/-- In range the decoded value is exactly magnitude x 10^(e + 3) milli-units, and nothing is logged (R176, R180). -/
def Obligations.DecodeExactInRange : Prop :=
  ∀ (p : Params) (level : BitVec 2) (hi lo eb : Byte) (idx : Nat),
    -3 ≤ decodeExponent p eb idx → decodeExponent p eb idx ≤ 10 →
    (decodeValue p level hi lo eb idx).value.toNat =
        (hi.toNat * 256 + lo.toNat) * 10 ^ (decodeExponent p eb idx + 3).toNat ∧
      (decodeValue p level hi lo eb idx).diag = none

/-- Out of range the value is 0; DEC_UNDERFLOW is logged at a debug level of 1 or 2 whatever the magnitude, DEC_OVERFLOW only
for a magnitude other than 0; below are the bytes 0x80 to 0xFC, above 0x0B (when not substituted) to 0x7F (R177, R178). -/
def Obligations.DecodeOutOfRange : Prop :=
  ∀ (p : Params) (level : BitVec 2) (hi lo eb : Byte) (idx : Nat),
    (decodeExponent p eb idx < -3 →
        (decodeValue p level hi lo eb idx).value = 0#64 ∧
          (decodeValue p level hi lo eb idx).diag =
            (if 1 ≤ level.toNat then some (.decUnderflow (hi ++ lo) (decodeExponent p eb idx) idx) else none)) ∧
      (10 < decodeExponent p eb idx →
        (decodeValue p level hi lo eb idx).value = 0#64 ∧
          (decodeValue p level hi lo eb idx).diag =
            (if hi.toNat * 256 + lo.toNat ≠ 0 ∧ 1 ≤ level.toNat then
              some (.decOverflow (hi ++ lo) (decodeExponent p eb idx) idx)
            else none)) ∧
      (p.Wf →
        (decodeExponent p eb idx < -3 ↔ 0x80 ≤ eb.toNat ∧ eb.toNat ≤ 0xFC) ∧
          (10 < decodeExponent p eb idx ↔ 0x0B ≤ eb.toNat ∧ eb.toNat ≤ 0x7F ∧ ¬ (eb = 11#8 ∧ idx < 9)))

/-- The exponent used: the slot's baseline for the byte 11 in slots 0 to 8, which then is in range; else the two's-complement
value of the byte (R174, R175). -/
def Obligations.ExponentSubstitution : Prop :=
  ∀ (p : Params) (eb : Byte) (idx : Nat), p.Wf →
    (eb = 11#8 → idx < 9 →
        p.baseExp[idx]? = some (decodeExponent p eb idx) ∧ -3 ≤ decodeExponent p eb idx ∧
          decodeExponent p eb idx ≤ 10) ∧
      (¬ (eb = 11#8 ∧ idx < 9) →
        decodeExponent p eb idx = if eb.toNat ≤ 0x7F then (eb.toNat : Int) else (eb.toNat : Int) - 256)

/-- FILTER on slots other than 5 with fewer than three rejections: rejected exactly when the candidate is above the slot's
bound of R192, and then the previous value stays and the counter goes up; else the candidate is taken and the counter is 0. -/
def Obligations.FilterBounds : Prop :=
  ∀ (x : FilterArgs), x.cnt.toNat ≤ 2 → x.idx < 9 → x.idx ≠ 5 →
    let bad : Prop :=
      (x.idx = 0 ∧ 10000000 < x.cand.toNat) ∨
        ((x.idx = 1 ∨ x.idx = 2 ∨ x.idx = 3) ∧ 0 < x.prev.toNat ∧ x.prev.toNat + 10000000 < x.cand.toNat) ∨
        ((x.idx = 4 ∨ x.idx = 6 ∨ x.idx = 7) ∧ 100000 < x.cand.toNat) ∨
        (x.idx = 8 ∧ 600000 < x.cand.toNat)
    (bad →
        (filterValue x).value = x.prev ∧ (filterValue x).counter.toNat = x.cnt.toNat + 1 ∧
          (filterValue x).diag = some (.filtReject x.a x.idx x.cand x.prev x.cnt)) ∧
      (¬ bad → (filterValue x).value = x.cand ∧ (filterValue x).counter = 0#2 ∧ (filterValue x).diag = none)

/-- FILTER on slot 5 with fewer than three rejections: brownout, bound, recovery and accept, in the order of R199. -/
def Obligations.FilterAcVoltage : Prop :=
  ∀ (x : FilterArgs), x.cnt.toNat ≤ 2 → x.idx = 5 →
    let brownout : Prop := 200000 < x.prev.toNat ∧ x.cand.toNat < 200000 ∧ 0 < x.dcv.toNat
    (brownout →
        (filterValue x).value = x.cand ∧ (filterValue x).counter.toNat = x.cnt.toNat + 1 ∧
          (filterValue x).diag = some (.filtShutdown x.a 5 x.cand x.prev x.cnt)) ∧
      (¬ brownout → 550000 < x.cand.toNat →
        (filterValue x).value = x.prev ∧ (filterValue x).counter.toNat = x.cnt.toNat + 1 ∧
          (filterValue x).diag = some (.filtReject x.a 5 x.cand x.prev x.cnt)) ∧
      (¬ brownout → x.cand.toNat ≤ 550000 →
        (filterValue x).value = x.cand ∧ (filterValue x).counter = 0#2 ∧
          (filterValue x).diag =
            (if x.prev.toNat < 200000 ∧ 200000 < x.cand.toNat then
              some (.filtRecovery x.a 5 x.cand x.prev x.cnt)
            else none))

/-- After three rejections FILTER takes any candidate, at any index, and clears the counter, before every other test (R190);
with fewer it rejects any index above 8 under its own event (R203). -/
def Obligations.FilterOverride : Prop :=
  ∀ (x : FilterArgs),
    (2 < x.cnt.toNat →
        filterValue x = Filtered.mk x.cand 0#2 (some (.filtOverride x.a x.idx x.cand x.prev x.cnt))) ∧
      (9 ≤ x.idx → x.cnt.toNat ≤ 2 →
        (filterValue x).value = x.prev ∧ (filterValue x).counter.toNat = x.cnt.toNat + 1 ∧
          (filterValue x).diag = some (.filtBadIndex x.a x.idx x.cand x.prev x.cnt))

/-- A FILTER call either takes its candidate and clears the counter, or goes up by one from at most 2; so of four calls in a
row on one entry, whatever the candidates and the DC voltages, one takes its candidate and clears the counter (R204). -/
def Obligations.FilterCounterMakesProgress : Prop :=
  ∀ (x : FilterArgs) (c2 c3 c4 d2 d3 d4 : BitVec 64),
    let next := fun (y : Filtered) (c d : BitVec 64) => FilterArgs.mk x.a x.idx c y.value y.counter d
    let takes := fun (z : FilterArgs) => (filterValue z).counter = 0#2 ∧ (filterValue z).value = z.cand
    let x2 := next (filterValue x) c2 d2
    let x3 := next (filterValue x2) c3 d3
    let x4 := next (filterValue x3) c4 d4
    (takes x ∨ x.cnt.toNat ≤ 2 ∧ (filterValue x).counter.toNat = x.cnt.toNat + 1) ∧
      (takes x ∨ takes x2 ∨ takes x3 ∨ takes x4)

/-! ## TICK -/

/-- A TICK that finds no request outstanding and a sequence in progress acts, after its watchdog, as the request that R223
selects, with the target and parameters of R231, R233 and R242. -/
def Obligations.TickRunsPendingRequest : Prop :=
  ∀ (dom : BitVec 5) (s : State), s.Inv → s.sysLive = true → dom ≠ 0#5 → s.sqAwaiting = false →
    s.sqSeqComplete = false →
    exec (.tick dom) s =
      exec (pendingRequest dom s)
        { s with
          outp := s.outp ++ noDataRecords s
          wdReported := s.wdReported || !(noDataRecords s).isEmpty }

/-- A TICK that finds the last sequence complete first starts the next one: the oldest queued command with its parameters,
else the idle command without any (R222, R302). -/
def Obligations.TickStartsNextSequence : Prop :=
  ∀ (dom : BitVec 5) (s : State), s.Inv → s.sysLive = true → dom ≠ 0#5 → s.sqAwaiting = false →
    s.sqSeqComplete = true →
    (∀ e rest, queued s = some e :: rest →
        exec (.tick dom) s =
          exec (.tick dom)
            { s with
              qTail := (s.qTail + 1) % s.params.qCap, qCount := s.qCount - 1,
              sqCur := (match e.kind with | .gv => .gv | .gdt => .gdt | .gai => .gai | .aef => .aef),
              sqP1 := e.p1, sqP2 := e.p2, sqSeqComplete := false, sqValIdx := 0 }) ∧
      (s.qCount = 0 →
        exec (.tick dom) s =
          exec (.tick dom)
            { s with
              sqCur := (match s.sqIdleNext with | .gai => .gai | .gval => .gval),
              sqP1 := none, sqP2 := none, sqSeqComplete := false, sqValIdx := 0 })

/-- A TICK that finds no request outstanding completes: NO_DATA if it is due, then exactly one TX, and the request is
recorded with the time of the TICK (R220, R223, R224, R341). The discovery, the table, the assembler and the configuration
stay; which sequence it is in and what it takes from the queue is said by the two statements above. -/
def Obligations.TickSendsOneRequest : Prop :=
  ∀ (dom : BitVec 5) (s : State), s.Inv → s.sysLive = true → dom ≠ 0#5 → s.sqAwaiting = false →
    ∃ t dev num cmd pl, exec (.tick dom) s = .next t ∧
      t.outp = s.outp ++ noDataRecords s ++ [.tx (frame dev num cmd pl)] ∧
      t.sqAwaiting = true ∧ t.sqSendTime = s.now ∧ t.sqOutCmd = cmd ∧ t.sqOutNum = num ∧ t.sqSeqComplete = false ∧
      t.wdLastRx = s.wdLastRx ∧ t.mtVal = s.mtVal ∧ t.mtRej = s.mtRej ∧ t.faPos = s.faPos ∧ t.faBuf = s.faBuf ∧
      t.faSyncErrs = s.faSyncErrs ∧ t.sqNActive = s.sqNActive ∧ t.sqActive = s.sqActive ∧
      t.sqInvCursor = s.sqInvCursor ∧ t.sqIdleNext = s.sqIdleNext ∧ t.sqAef = s.sqAef ∧
      t.sqZeroWarned = s.sqZeroWarned ∧ t.qEnt = s.qEnt ∧ t.qHead = s.qHead ∧ t.cfgInvCount = s.cfgInvCount ∧
      t.cfgAutoAef = s.cfgAutoAef ∧ t.cfgDebug = s.cfgDebug

/-- A TICK with a request outstanding for less than 2000 ms does nothing but its watchdog (R220, R221, R341). -/
def Obligations.TickWaitsForReply : Prop :=
  ∀ (dom : BitVec 5) (s : State), s.sysLive = true → dom ≠ 0#5 → s.sqAwaiting = true →
    (s.now - s.sqSendTime).toNat < 2000 →
    exec (.tick dom) s =
      .next { s with
        outp := s.outp ++ noDataRecords s, wdReported := s.wdReported || !(noDataRecords s).isEmpty }

/-- The first TICK at or after 2000 ms logs REPLY_TIMEOUT and ends the exchange as a failure; it sends no request (R221,
R273). -/
def Obligations.TickTimesOut : Prop :=
  ∀ (dom : BitVec 5) (s : State), s.Inv → s.sysLive = true → dom ≠ 0#5 → s.sqAwaiting = true →
    2000 ≤ (s.now - s.sqSendTime).toNat →
    exec (.tick dom) s =
      .next
        (failedExchange (noDataRecords s ++ [.log .warn 0x30#8 (.replyTimeout s.sqOutCmd s.sqOutNum)])
          { s with wdReported := s.wdReported || !(noDataRecords s).isEmpty })

/-! ## Requests

That a row TX_* stands for sending its request and committing it (R224), by itself, is the model's reading (log entry 7). -/

/-- The requests without a target: TX_GETVERSION and TX_GETACTIVE send eight bytes to DEV 0, NUM 0 and are recorded as
outstanding; nothing else changes (R230, R232, R224). That a row by itself does so in
every live state, also with a request outstanding, which R223 excludes for a TICK, is the model's reading (log entry 7). -/
def Obligations.BroadcastRequests : Prop :=
  ∀ s : State, s.sysLive = true →
    let after := fun (cmd : Byte) =>
      { s with
        outp := s.outp ++ [.tx [0x80#8, 0x80#8, 0x80#8, 0#8, 0#8, 0#8, cmd, cmd]],
        sqAwaiting := true, sqSendTime := s.now, sqOutCmd := cmd, sqOutNum := 0#8 }
    exec .txGetversion s = .next (after s.params.cmdGv) ∧ exec .txGetactive s = .next (after s.params.cmdGai)

/-- TX_GETDEVTYPE sends `DEV_INV`, the target and `CMD_GDT`, and is recorded as outstanding (R231, R224). That a row by
itself does so in every live state, also with a request outstanding, which R223 excludes for a TICK, is the model's reading (log entry 7). -/
def Obligations.DeviceTypeRequest : Prop :=
  ∀ (n : Byte) (s : State), s.sysLive = true →
    exec (.txGetdevtype n) s =
      .next { s with
        outp := s.outp ++
          [.tx [0x80#8, 0x80#8, 0x80#8, 0#8, s.params.devInv, n, s.params.cmdGdt, s.params.devInv + n + s.params.cmdGdt]],
        sqAwaiting := true, sqSendTime := s.now, sqOutCmd := s.params.cmdGdt, sqOutNum := n }

/-- TX_GETVAL_0 to TX_GETVAL_8 (`txGetvalInstr k`) send `DEV_INV`, the target and `CMD_VAL_BASE + k`, and are recorded as
outstanding (R233 to R241, R224). That each row by itself does so in
every live state, also with a request outstanding, which R223 excludes for a TICK, is the model's reading (log entry 7). -/
def Obligations.ValueRequests : Prop :=
  ∀ (k : Nat) (n : Byte) (s : State), s.sysLive = true → k < 9 →
    exec (txGetvalInstr k n) s =
      .next { s with
        outp := s.outp ++
          [.tx
            [0x80#8, 0x80#8, 0x80#8, 0#8, s.params.devInv, n, s.params.cmdValBase + BitVec.ofNat 8 k,
              s.params.devInv + n + (s.params.cmdValBase + BitVec.ofNat 8 k)]],
        sqAwaiting := true, sqSendTime := s.now, sqOutCmd := s.params.cmdValBase + BitVec.ofNat 8 k, sqOutNum := n }

/-- TX_AEF sends its two parameters in a frame of ten bytes, and is recorded as outstanding (R242, R102, R224). That
a row by itself does so in every live state, also with a request outstanding, which R223 excludes for a TICK, is the model's reading (log entry 7). -/
def Obligations.ErrorForwardingRequest : Prop :=
  ∀ (p1 p2 : Byte) (s : State), s.sysLive = true →
    exec (.txAef p1 p2) s =
      .next { s with
        outp := s.outp ++
          [.tx [0x80#8, 0x80#8, 0x80#8, 2#8, 0#8, 0#8, s.params.cmdAef, p1, p2, 2#8 + s.params.cmdAef + p1 + p2]],
        sqAwaiting := true, sqSendTime := s.now, sqOutCmd := s.params.cmdAef, sqOutNum := 0#8 }

/-! ## Replies

That a row RX_* stands for the dispatch of a validated frame of its class, by itself, is the model's reading (log entry 8). -/

/-- A frame that is no error response and does not answer the outstanding request is logged as UNEXPECTED_PACKET and
changes nothing else: as the dispatch of any CMD byte, listed or not (R253), and as the instruction of its class. That a row
RX_* run by itself in a state that it does not answer is such a frame is the model's reading (log entry 8). -/
def Obligations.UnexpectedFramesChangeNothing : Prop :=
  ∀ (s : State) (f : FrameFields), f.cmd ≠ s.params.cmdPerr → f.cmd ≠ s.params.cmdEstate → ¬ Answers s f.num f.cmd →
    let t := { s with
      outp := s.outp ++ [.log .warn 0x33#8 (.unexpectedPacket f.dev f.num f.cmd f.pl.length)] }
    dispatch f.dev f.num f.cmd f.pl s = .next t ∧
      ∀ (bytes : List Byte) (i : Instr), s.sysLive = true → parseFrame bytes = .ok f →
        decodeInbound s.params bytes = .ok i → exec i s = .next t

/-- RX_VERSION answering the outstanding request ends the sequence: with VERSION_INFO if the payload has a type byte, else
with MALFORMED_REPLY (R254, R259, R270). -/
def Obligations.VersionReplyEndsSequence : Prop :=
  ∀ (dev num : Byte) (pl : List Byte) (s : State), s.params.Wf → s.sysLive = true →
    wellFormed s.params (.rxVersion dev num pl) = true → Answers s num s.params.cmdGv → s.sqCur = .gv →
    exec (.rxVersion dev num pl) s =
      .next { s with
        sqAwaiting := false, sqSeqComplete := true,
        outp := s.outp ++
          [match pl with
            | t :: rest => .log .info 0x35#8 (.versionInfo t rest)
            | [] => .log .warn 0x34#8 (.malformedReply s.params.cmdGv 0)] }

/-- RX_DEVTYPE answering the outstanding request ends the sequence: with DEVTYPE_INFO if the payload has a type byte, else
with MALFORMED_REPLY (R255, R259, R270). -/
def Obligations.DeviceTypeReplyEndsSequence : Prop :=
  ∀ (dev num : Byte) (pl : List Byte) (s : State), s.params.Wf → s.sysLive = true →
    wellFormed s.params (.rxDevtype dev num pl) = true → Answers s num s.params.cmdGdt → s.sqCur = .gdt →
    exec (.rxDevtype dev num pl) s =
      .next { s with
        sqAwaiting := false, sqSeqComplete := true,
        outp := s.outp ++
          [match pl with
            | t :: _ => .log .info 0x36#8 (.devtypeInfo num t)
            | [] => .log .warn 0x34#8 (.malformedReply s.params.cmdGdt 0)] }

/-- RX_ACTIVE answering the outstanding request with the glitch address in its payload is logged and changes nothing else:
the wait goes on (R260). -/
def Obligations.GlitchDiscoveryIsDiscarded : Prop :=
  ∀ (dev num : Byte) (pl : List Byte) (s : State), s.params.Wf → s.sysLive = true →
    wellFormed s.params (.rxActive dev num pl) = true → Answers s num s.params.cmdGai → s.sqCur = .gai →
    s.params.glitchAddr ∈ pl →
    exec (.rxActive dev num pl) s = .next { s with outp := s.outp ++ [.log .warn 0x3A#8 (.glitchDiscard pl)] }

/-- RX_ACTIVE with an address above `cfg_invCount`, the first such being `a`, ends the discovery as a failure with
CONFIG_ERROR; the list, its count and the cursor stay; ZERO_ADDR comes before it, once (R261 to R263, R270). -/
def Obligations.ConfigErrorKeepsDiscovery : Prop :=
  ∀ (dev num a : Byte) (pl before after : List Byte) (s : State), s.params.Wf → s.sysLive = true →
    wellFormed s.params (.rxActive dev num pl) = true → Answers s num s.params.cmdGai → s.sqCur = .gai →
    s.params.glitchAddr ∉ pl → pl = before ++ a :: after → s.cfgInvCount.toNat < a.toNat → 1 ≤ s.cfgInvCount.toNat →
    (∀ b ∈ before, b.toNat ≤ s.cfgInvCount.toNat) →
    exec (.rxActive dev num pl) s =
      .next { s with
        sqAwaiting := false, sqSeqComplete := true, sqIdleNext := .gai,
        sqZeroWarned := s.sqZeroWarned || decide (0#8 ∈ pl),
        outp := s.outp ++ (if 0#8 ∈ pl ∧ s.sqZeroWarned = false then [.log .warn 0x39#8 .zeroAddr] else []) ++
          [.log .fatal 0x38#8 (.configError a s.cfgInvCount)] }

/-- RX_ACTIVE with every address legal commits the discovery: the addresses with 0 read as 1, the cursor kept while it is
in range, and GetValues next if any inverter answered (R261, R262, R264, R270). -/
def Obligations.DiscoveryCommits : Prop :=
  ∀ (dev num : Byte) (pl : List Byte) (s : State), s.params.Wf → s.sysLive = true →
    wellFormed s.params (.rxActive dev num pl) = true → Answers s num s.params.cmdGai → s.sqCur = .gai →
    s.params.glitchAddr ∉ pl → 1 ≤ s.cfgInvCount.toNat → (∀ b ∈ pl, b.toNat ≤ s.cfgInvCount.toNat) →
    exec (.rxActive dev num pl) s =
      .next { s with
        sqAwaiting := false, sqSeqComplete := true,
        sqNActive := pl.length,
        sqActive := (pl.map fun b => if b = 0#8 then 1#8 else b) ++ s.sqActive.drop pl.length,
        sqInvCursor := if s.sqInvCursor ≥ pl.length then 0 else s.sqInvCursor,
        sqIdleNext := if pl.length > 0 then .gval else .gai,
        sqZeroWarned := s.sqZeroWarned || decide (0#8 ∈ pl),
        outp := s.outp ++ (if 0#8 ∈ pl ∧ s.sqZeroWarned = false then [.log .warn 0x39#8 .zeroAddr] else []) }

/-- RX_VAL_0 to RX_VAL_8 (`rxValInstr k`) with LEN = 3, answering the outstanding request: the payload is decoded and
filtered against the stored entry, the result is stored, every other table entry stays, the diagnostics come in the order
DEC, FILT, and the sweep goes to its next slot, or after slot 8 reports the stored values and ends (R257, R280 to R288,
R271, R330). -/
def Obligations.ValueReplyStoresFilteredValue : Prop :=
  ∀ (k : Nat) (dev num hi lo eb : Byte) (s : State), s.Inv →
    s.sysLive = true → wellFormed s.params (rxValInstr k dev num [hi, lo, eb]) = true →
    Answers s num (s.params.cmdVal k) → s.sqCur = .gval → s.sqValIdx = k →
    ∃ prev cnt dcv t, valAt s num k = some prev ∧ rejAt s num k = some cnt ∧ valAt s num 8 = some dcv ∧
      exec (rxValInstr k dev num [hi, lo, eb]) s = .next t ∧
      (let d := decodeValue s.params s.cfgDebug hi lo eb k
        let f := filterValue (FilterArgs.mk num k d.value prev cnt dcv)
        valAt t num k = some f.value ∧ rejAt t num k = some f.counter ∧
        (∀ (a : Byte) (j : Nat), ¬ (a = num ∧ j = k) → valAt t a j = valAt s a j ∧ rejAt t a j = rejAt s a j) ∧
        t = { s with
          mtVal := t.mtVal, mtRej := t.mtRej, sqAwaiting := false, sqValIdx := k + 1, sqSeqComplete := decide (k = 8),
          sqIdleNext := if k = 8 then .gai else s.sqIdleNext,
          sqInvCursor := if k = 8 then (s.sqInvCursor + 1) % s.sqNActive else s.sqInvCursor,
          outp := s.outp ++ d.diag.toList.map logRecord ++ f.diag.toList.map logRecord ++
            if k = 8 then [reportOf t num] else [] })

/-- RX_VAL_0 to RX_VAL_8 with another LEN than 3, answering the outstanding request, is MALFORMED_REPLY and a failed exchange:
the slot is skipped and the table unchanged (R257, R259). -/
def Obligations.MalformedValueReplySkipsSlot : Prop :=
  ∀ (k : Nat) (dev num : Byte) (pl : List Byte) (s : State), s.Inv → s.sysLive = true →
    wellFormed s.params (rxValInstr k dev num pl) = true → pl.length ≠ 3 →
    Answers s num (s.params.cmdVal k) → s.sqCur = .gval → s.sqValIdx = k →
    exec (rxValInstr k dev num pl) s =
      .next (failedExchange [.log .warn 0x34#8 (.malformedReply (s.params.cmdVal k) pl.length)] s)

/-- One exchange of a sweep ends, well or badly: the sweep goes to its next slot; after slot 8 it emits REPORT with the nine
stored values of the inverter under the cursor, advances the cursor round the discovered list, and puts discovery next
(R271). -/
def Obligations.SweepStepReportsAtEnd : Prop :=
  ∀ (ok : Bool) (s : State), s.Inv → s.sysLive = true → s.sqCur = .gval → s.sqSeqComplete = false →
    (s.sqValIdx ≠ 8 → stepDone ok s = .next { s with sqValIdx := s.sqValIdx + 1 }) ∧
      (s.sqValIdx = 8 →
        ∃ a values, (activeList s)[s.sqInvCursor]? = some a ∧ values.length = 9 ∧
          (∀ k < 9, valAt s a k = values[k]?) ∧
          stepDone ok s =
            .next { s with
              sqValIdx := 9, sqInvCursor := (s.sqInvCursor + 1) % s.sqNActive, sqIdleNext := .gai,
              sqSeqComplete := true, outp := s.outp ++ [.report a values] })

/-- RX_AEF answering the outstanding request, with any payload, is a successful activation: AEF_RESULT, first attempt or
one-off, and COMPLETE (R258, R272). -/
def Obligations.ErrorForwardingReplyCompletes : Prop :=
  ∀ (dev num : Byte) (pl : List Byte) (s : State), s.params.Wf → s.sysLive = true →
    wellFormed s.params (.rxAef dev num pl) = true → Answers s num s.params.cmdAef → s.sqCur = .aef →
    exec (.rxAef dev num pl) s =
      .next { s with
        sqAwaiting := false, sqSeqComplete := true, sqAef := .complete,
        outp := s.outp ++ [.log .info 0x37#8 (.aefResult true (s.sqAef == .init))] }

/-- RX_PROTOCOL_ERROR and RX_ERROR_STATE that are no response to the outstanding request are logged and change nothing else,
in every state (R251, R252). -/
def Obligations.UnrelatedErrorFramesAreLogged : Prop :=
  ∀ (dev num : Byte) (pl : List Byte) (s : State), s.params.Wf → s.sysLive = true →
    wellFormed s.params (.rxProtocolError dev num pl) = true → ¬ (s.sqAwaiting = true ∧ num = s.sqOutNum) →
    exec (.rxProtocolError dev num pl) s =
        .next { s with outp := s.outp ++ [.log .warn 0x31#8 (.protocolError dev num pl)] } ∧
      exec (.rxErrorState dev num pl) s =
        .next { s with outp := s.outp ++ [.log .warn 0x32#8 (.errorState dev num pl)] }

/-- RX_PROTOCOL_ERROR and RX_ERROR_STATE that respond to the outstanding request are logged and end its exchange as a
failure, without touching the table or the discovery list (R251, R252, R270 to R272). -/
def Obligations.ErrorResponsesEndExchange : Prop :=
  ∀ (dev num : Byte) (pl : List Byte) (s : State), s.Inv → s.sysLive = true →
    wellFormed s.params (.rxProtocolError dev num pl) = true → s.sqAwaiting = true → num = s.sqOutNum →
    exec (.rxProtocolError dev num pl) s =
        .next (failedExchange [.log .warn 0x31#8 (.protocolError dev num pl)] s) ∧
      exec (.rxErrorState dev num pl) s =
        .next (failedExchange [.log .warn 0x32#8 (.errorState dev num pl)] s)
end

