-- ==== Sys2Proof/Laws/State.lean ====
section
/-! SUPPORT. What each named update of the state does to each field: one lemma per field and update, by definition. -/

namespace Sys2Proof.Machine

variable (s : State)

/-! ## `emit` -/

@[simp] theorem emit_params (r : Record) : (emit r s).params = s.params := rfl
@[simp] theorem emit_inq (r : Record) : (emit r s).inq = s.inq := rfl
@[simp] theorem emit_now (r : Record) : (emit r s).now = s.now := rfl
@[simp] theorem emit_outp (r : Record) : (emit r s).outp = s.outp ++ [r] := rfl
@[simp] theorem emit_sysLive (r : Record) : (emit r s).sysLive = s.sysLive := rfl
@[simp] theorem emit_cfgInvCount (r : Record) : (emit r s).cfgInvCount = s.cfgInvCount := rfl
@[simp] theorem emit_cfgAutoAef (r : Record) : (emit r s).cfgAutoAef = s.cfgAutoAef := rfl
@[simp] theorem emit_cfgDebug (r : Record) : (emit r s).cfgDebug = s.cfgDebug := rfl
@[simp] theorem emit_faPos (r : Record) : (emit r s).faPos = s.faPos := rfl
@[simp] theorem emit_faBuf (r : Record) : (emit r s).faBuf = s.faBuf := rfl
@[simp] theorem emit_faSyncErrs (r : Record) : (emit r s).faSyncErrs = s.faSyncErrs := rfl
@[simp] theorem emit_wdLastRx (r : Record) : (emit r s).wdLastRx = s.wdLastRx := rfl
@[simp] theorem emit_wdReported (r : Record) : (emit r s).wdReported = s.wdReported := rfl
@[simp] theorem emit_sqCur (r : Record) : (emit r s).sqCur = s.sqCur := rfl
@[simp] theorem emit_sqP1 (r : Record) : (emit r s).sqP1 = s.sqP1 := rfl
@[simp] theorem emit_sqP2 (r : Record) : (emit r s).sqP2 = s.sqP2 := rfl
@[simp] theorem emit_sqIdleNext (r : Record) : (emit r s).sqIdleNext = s.sqIdleNext := rfl
@[simp] theorem emit_sqValIdx (r : Record) : (emit r s).sqValIdx = s.sqValIdx := rfl
@[simp] theorem emit_sqAwaiting (r : Record) : (emit r s).sqAwaiting = s.sqAwaiting := rfl
@[simp] theorem emit_sqSendTime (r : Record) : (emit r s).sqSendTime = s.sqSendTime := rfl
@[simp] theorem emit_sqOutCmd (r : Record) : (emit r s).sqOutCmd = s.sqOutCmd := rfl
@[simp] theorem emit_sqOutNum (r : Record) : (emit r s).sqOutNum = s.sqOutNum := rfl
@[simp] theorem emit_sqSeqComplete (r : Record) : (emit r s).sqSeqComplete = s.sqSeqComplete := rfl
@[simp] theorem emit_sqNActive (r : Record) : (emit r s).sqNActive = s.sqNActive := rfl
@[simp] theorem emit_sqActive (r : Record) : (emit r s).sqActive = s.sqActive := rfl
@[simp] theorem emit_sqInvCursor (r : Record) : (emit r s).sqInvCursor = s.sqInvCursor := rfl
@[simp] theorem emit_sqAef (r : Record) : (emit r s).sqAef = s.sqAef := rfl
@[simp] theorem emit_sqZeroWarned (r : Record) : (emit r s).sqZeroWarned = s.sqZeroWarned := rfl
@[simp] theorem emit_mtVal (r : Record) : (emit r s).mtVal = s.mtVal := rfl
@[simp] theorem emit_mtRej (r : Record) : (emit r s).mtRej = s.mtRej := rfl
@[simp] theorem emit_qEnt (r : Record) : (emit r s).qEnt = s.qEnt := rfl
@[simp] theorem emit_qHead (r : Record) : (emit r s).qHead = s.qHead := rfl
@[simp] theorem emit_qTail (r : Record) : (emit r s).qTail = s.qTail := rfl
@[simp] theorem emit_qCount (r : Record) : (emit r s).qCount = s.qCount := rfl

/-! ## `log` -/

@[simp] theorem log_params (e : Event) : (log e s).params = s.params := rfl
@[simp] theorem log_inq (e : Event) : (log e s).inq = s.inq := rfl
@[simp] theorem log_now (e : Event) : (log e s).now = s.now := rfl
@[simp] theorem log_outp (e : Event) : (log e s).outp = s.outp ++ [logRecord e] := rfl
@[simp] theorem log_sysLive (e : Event) : (log e s).sysLive = s.sysLive := rfl
@[simp] theorem log_cfgInvCount (e : Event) : (log e s).cfgInvCount = s.cfgInvCount := rfl
@[simp] theorem log_cfgAutoAef (e : Event) : (log e s).cfgAutoAef = s.cfgAutoAef := rfl
@[simp] theorem log_cfgDebug (e : Event) : (log e s).cfgDebug = s.cfgDebug := rfl
@[simp] theorem log_faPos (e : Event) : (log e s).faPos = s.faPos := rfl
@[simp] theorem log_faBuf (e : Event) : (log e s).faBuf = s.faBuf := rfl
@[simp] theorem log_faSyncErrs (e : Event) : (log e s).faSyncErrs = s.faSyncErrs := rfl
@[simp] theorem log_wdLastRx (e : Event) : (log e s).wdLastRx = s.wdLastRx := rfl
@[simp] theorem log_wdReported (e : Event) : (log e s).wdReported = s.wdReported := rfl
@[simp] theorem log_sqCur (e : Event) : (log e s).sqCur = s.sqCur := rfl
@[simp] theorem log_sqP1 (e : Event) : (log e s).sqP1 = s.sqP1 := rfl
@[simp] theorem log_sqP2 (e : Event) : (log e s).sqP2 = s.sqP2 := rfl
@[simp] theorem log_sqIdleNext (e : Event) : (log e s).sqIdleNext = s.sqIdleNext := rfl
@[simp] theorem log_sqValIdx (e : Event) : (log e s).sqValIdx = s.sqValIdx := rfl
@[simp] theorem log_sqAwaiting (e : Event) : (log e s).sqAwaiting = s.sqAwaiting := rfl
@[simp] theorem log_sqSendTime (e : Event) : (log e s).sqSendTime = s.sqSendTime := rfl
@[simp] theorem log_sqOutCmd (e : Event) : (log e s).sqOutCmd = s.sqOutCmd := rfl
@[simp] theorem log_sqOutNum (e : Event) : (log e s).sqOutNum = s.sqOutNum := rfl
@[simp] theorem log_sqSeqComplete (e : Event) : (log e s).sqSeqComplete = s.sqSeqComplete := rfl
@[simp] theorem log_sqNActive (e : Event) : (log e s).sqNActive = s.sqNActive := rfl
@[simp] theorem log_sqActive (e : Event) : (log e s).sqActive = s.sqActive := rfl
@[simp] theorem log_sqInvCursor (e : Event) : (log e s).sqInvCursor = s.sqInvCursor := rfl
@[simp] theorem log_sqAef (e : Event) : (log e s).sqAef = s.sqAef := rfl
@[simp] theorem log_sqZeroWarned (e : Event) : (log e s).sqZeroWarned = s.sqZeroWarned := rfl
@[simp] theorem log_mtVal (e : Event) : (log e s).mtVal = s.mtVal := rfl
@[simp] theorem log_mtRej (e : Event) : (log e s).mtRej = s.mtRej := rfl
@[simp] theorem log_qEnt (e : Event) : (log e s).qEnt = s.qEnt := rfl
@[simp] theorem log_qHead (e : Event) : (log e s).qHead = s.qHead := rfl
@[simp] theorem log_qTail (e : Event) : (log e s).qTail = s.qTail := rfl
@[simp] theorem log_qCount (e : Event) : (log e s).qCount = s.qCount := rfl

/-! ## `raiseDiscard` -/

@[simp] theorem raiseDiscard_params (d : DiscardReason) : (raiseDiscard d s).params = s.params := rfl
@[simp] theorem raiseDiscard_inq (d : DiscardReason) : (raiseDiscard d s).inq = s.inq := rfl
@[simp] theorem raiseDiscard_now (d : DiscardReason) : (raiseDiscard d s).now = s.now := rfl
@[simp] theorem raiseDiscard_outp (d : DiscardReason) :
    (raiseDiscard d s).outp = s.outp ++ [.frame (.discard d)] := rfl
@[simp] theorem raiseDiscard_sysLive (d : DiscardReason) : (raiseDiscard d s).sysLive = s.sysLive := rfl
@[simp] theorem raiseDiscard_cfgInvCount (d : DiscardReason) : (raiseDiscard d s).cfgInvCount = s.cfgInvCount := rfl
@[simp] theorem raiseDiscard_cfgAutoAef (d : DiscardReason) : (raiseDiscard d s).cfgAutoAef = s.cfgAutoAef := rfl
@[simp] theorem raiseDiscard_cfgDebug (d : DiscardReason) : (raiseDiscard d s).cfgDebug = s.cfgDebug := rfl
@[simp] theorem raiseDiscard_faPos (d : DiscardReason) : (raiseDiscard d s).faPos = 0 := rfl
@[simp] theorem raiseDiscard_faBuf (d : DiscardReason) : (raiseDiscard d s).faBuf = s.faBuf := rfl
@[simp] theorem raiseDiscard_faSyncErrs (d : DiscardReason) : (raiseDiscard d s).faSyncErrs = s.faSyncErrs := rfl
@[simp] theorem raiseDiscard_wdLastRx (d : DiscardReason) : (raiseDiscard d s).wdLastRx = s.wdLastRx := rfl
@[simp] theorem raiseDiscard_wdReported (d : DiscardReason) : (raiseDiscard d s).wdReported = s.wdReported := rfl
@[simp] theorem raiseDiscard_sqCur (d : DiscardReason) : (raiseDiscard d s).sqCur = s.sqCur := rfl
@[simp] theorem raiseDiscard_sqP1 (d : DiscardReason) : (raiseDiscard d s).sqP1 = s.sqP1 := rfl
@[simp] theorem raiseDiscard_sqP2 (d : DiscardReason) : (raiseDiscard d s).sqP2 = s.sqP2 := rfl
@[simp] theorem raiseDiscard_sqIdleNext (d : DiscardReason) : (raiseDiscard d s).sqIdleNext = s.sqIdleNext := rfl
@[simp] theorem raiseDiscard_sqValIdx (d : DiscardReason) : (raiseDiscard d s).sqValIdx = s.sqValIdx := rfl
@[simp] theorem raiseDiscard_sqAwaiting (d : DiscardReason) : (raiseDiscard d s).sqAwaiting = s.sqAwaiting := rfl
@[simp] theorem raiseDiscard_sqSendTime (d : DiscardReason) : (raiseDiscard d s).sqSendTime = s.sqSendTime := rfl
@[simp] theorem raiseDiscard_sqOutCmd (d : DiscardReason) : (raiseDiscard d s).sqOutCmd = s.sqOutCmd := rfl
@[simp] theorem raiseDiscard_sqOutNum (d : DiscardReason) : (raiseDiscard d s).sqOutNum = s.sqOutNum := rfl
@[simp] theorem raiseDiscard_sqSeqComplete (d : DiscardReason) :
    (raiseDiscard d s).sqSeqComplete = s.sqSeqComplete := rfl
@[simp] theorem raiseDiscard_sqNActive (d : DiscardReason) : (raiseDiscard d s).sqNActive = s.sqNActive := rfl
@[simp] theorem raiseDiscard_sqActive (d : DiscardReason) : (raiseDiscard d s).sqActive = s.sqActive := rfl
@[simp] theorem raiseDiscard_sqInvCursor (d : DiscardReason) : (raiseDiscard d s).sqInvCursor = s.sqInvCursor := rfl
@[simp] theorem raiseDiscard_sqAef (d : DiscardReason) : (raiseDiscard d s).sqAef = s.sqAef := rfl
@[simp] theorem raiseDiscard_sqZeroWarned (d : DiscardReason) :
    (raiseDiscard d s).sqZeroWarned = s.sqZeroWarned := rfl
@[simp] theorem raiseDiscard_mtVal (d : DiscardReason) : (raiseDiscard d s).mtVal = s.mtVal := rfl
@[simp] theorem raiseDiscard_mtRej (d : DiscardReason) : (raiseDiscard d s).mtRej = s.mtRej := rfl
@[simp] theorem raiseDiscard_qEnt (d : DiscardReason) : (raiseDiscard d s).qEnt = s.qEnt := rfl
@[simp] theorem raiseDiscard_qHead (d : DiscardReason) : (raiseDiscard d s).qHead = s.qHead := rfl
@[simp] theorem raiseDiscard_qTail (d : DiscardReason) : (raiseDiscard d s).qTail = s.qTail := rfl
@[simp] theorem raiseDiscard_qCount (d : DiscardReason) : (raiseDiscard d s).qCount = s.qCount := rfl

/-! ## `storeByte` -/

@[simp] theorem storeByte_params (p : Nat) (b : Byte) : (storeByte p b s).params = s.params := rfl
@[simp] theorem storeByte_inq (p : Nat) (b : Byte) : (storeByte p b s).inq = s.inq := rfl
@[simp] theorem storeByte_now (p : Nat) (b : Byte) : (storeByte p b s).now = s.now := rfl
@[simp] theorem storeByte_outp (p : Nat) (b : Byte) : (storeByte p b s).outp = s.outp := rfl
@[simp] theorem storeByte_sysLive (p : Nat) (b : Byte) : (storeByte p b s).sysLive = s.sysLive := rfl
@[simp] theorem storeByte_cfgInvCount (p : Nat) (b : Byte) : (storeByte p b s).cfgInvCount = s.cfgInvCount := rfl
@[simp] theorem storeByte_cfgAutoAef (p : Nat) (b : Byte) : (storeByte p b s).cfgAutoAef = s.cfgAutoAef := rfl
@[simp] theorem storeByte_cfgDebug (p : Nat) (b : Byte) : (storeByte p b s).cfgDebug = s.cfgDebug := rfl
@[simp] theorem storeByte_faPos (p : Nat) (b : Byte) : (storeByte p b s).faPos = p + 1 := rfl
@[simp] theorem storeByte_faBuf (p : Nat) (b : Byte) : (storeByte p b s).faBuf = s.faBuf.set p b := rfl
@[simp] theorem storeByte_faSyncErrs (p : Nat) (b : Byte) : (storeByte p b s).faSyncErrs = s.faSyncErrs := rfl
@[simp] theorem storeByte_wdLastRx (p : Nat) (b : Byte) : (storeByte p b s).wdLastRx = s.wdLastRx := rfl
@[simp] theorem storeByte_wdReported (p : Nat) (b : Byte) : (storeByte p b s).wdReported = s.wdReported := rfl
@[simp] theorem storeByte_sqCur (p : Nat) (b : Byte) : (storeByte p b s).sqCur = s.sqCur := rfl
@[simp] theorem storeByte_sqP1 (p : Nat) (b : Byte) : (storeByte p b s).sqP1 = s.sqP1 := rfl
@[simp] theorem storeByte_sqP2 (p : Nat) (b : Byte) : (storeByte p b s).sqP2 = s.sqP2 := rfl
@[simp] theorem storeByte_sqIdleNext (p : Nat) (b : Byte) : (storeByte p b s).sqIdleNext = s.sqIdleNext := rfl
@[simp] theorem storeByte_sqValIdx (p : Nat) (b : Byte) : (storeByte p b s).sqValIdx = s.sqValIdx := rfl
@[simp] theorem storeByte_sqAwaiting (p : Nat) (b : Byte) : (storeByte p b s).sqAwaiting = s.sqAwaiting := rfl
@[simp] theorem storeByte_sqSendTime (p : Nat) (b : Byte) : (storeByte p b s).sqSendTime = s.sqSendTime := rfl
@[simp] theorem storeByte_sqOutCmd (p : Nat) (b : Byte) : (storeByte p b s).sqOutCmd = s.sqOutCmd := rfl
@[simp] theorem storeByte_sqOutNum (p : Nat) (b : Byte) : (storeByte p b s).sqOutNum = s.sqOutNum := rfl
@[simp] theorem storeByte_sqSeqComplete (p : Nat) (b : Byte) :
    (storeByte p b s).sqSeqComplete = s.sqSeqComplete := rfl
@[simp] theorem storeByte_sqNActive (p : Nat) (b : Byte) : (storeByte p b s).sqNActive = s.sqNActive := rfl
@[simp] theorem storeByte_sqActive (p : Nat) (b : Byte) : (storeByte p b s).sqActive = s.sqActive := rfl
@[simp] theorem storeByte_sqInvCursor (p : Nat) (b : Byte) : (storeByte p b s).sqInvCursor = s.sqInvCursor := rfl
@[simp] theorem storeByte_sqAef (p : Nat) (b : Byte) : (storeByte p b s).sqAef = s.sqAef := rfl
@[simp] theorem storeByte_sqZeroWarned (p : Nat) (b : Byte) : (storeByte p b s).sqZeroWarned = s.sqZeroWarned := rfl
@[simp] theorem storeByte_mtVal (p : Nat) (b : Byte) : (storeByte p b s).mtVal = s.mtVal := rfl
@[simp] theorem storeByte_mtRej (p : Nat) (b : Byte) : (storeByte p b s).mtRej = s.mtRej := rfl
@[simp] theorem storeByte_qEnt (p : Nat) (b : Byte) : (storeByte p b s).qEnt = s.qEnt := rfl
@[simp] theorem storeByte_qHead (p : Nat) (b : Byte) : (storeByte p b s).qHead = s.qHead := rfl
@[simp] theorem storeByte_qTail (p : Nat) (b : Byte) : (storeByte p b s).qTail = s.qTail := rfl
@[simp] theorem storeByte_qCount (p : Nat) (b : Byte) : (storeByte p b s).qCount = s.qCount := rfl

/-! ## `storeEntry` -/

@[simp] theorem storeEntry_params (a : Byte) (k : Nat) (v : BitVec 64) (c : BitVec 2) :
    (storeEntry a k v c s).params = s.params := rfl
@[simp] theorem storeEntry_inq (a : Byte) (k : Nat) (v : BitVec 64) (c : BitVec 2) :
    (storeEntry a k v c s).inq = s.inq := rfl
@[simp] theorem storeEntry_now (a : Byte) (k : Nat) (v : BitVec 64) (c : BitVec 2) :
    (storeEntry a k v c s).now = s.now := rfl
@[simp] theorem storeEntry_outp (a : Byte) (k : Nat) (v : BitVec 64) (c : BitVec 2) :
    (storeEntry a k v c s).outp = s.outp := rfl
@[simp] theorem storeEntry_sysLive (a : Byte) (k : Nat) (v : BitVec 64) (c : BitVec 2) :
    (storeEntry a k v c s).sysLive = s.sysLive := rfl
@[simp] theorem storeEntry_cfgInvCount (a : Byte) (k : Nat) (v : BitVec 64) (c : BitVec 2) :
    (storeEntry a k v c s).cfgInvCount = s.cfgInvCount := rfl
@[simp] theorem storeEntry_cfgAutoAef (a : Byte) (k : Nat) (v : BitVec 64) (c : BitVec 2) :
    (storeEntry a k v c s).cfgAutoAef = s.cfgAutoAef := rfl
@[simp] theorem storeEntry_cfgDebug (a : Byte) (k : Nat) (v : BitVec 64) (c : BitVec 2) :
    (storeEntry a k v c s).cfgDebug = s.cfgDebug := rfl
@[simp] theorem storeEntry_faPos (a : Byte) (k : Nat) (v : BitVec 64) (c : BitVec 2) :
    (storeEntry a k v c s).faPos = s.faPos := rfl
@[simp] theorem storeEntry_faBuf (a : Byte) (k : Nat) (v : BitVec 64) (c : BitVec 2) :
    (storeEntry a k v c s).faBuf = s.faBuf := rfl
@[simp] theorem storeEntry_faSyncErrs (a : Byte) (k : Nat) (v : BitVec 64) (c : BitVec 2) :
    (storeEntry a k v c s).faSyncErrs = s.faSyncErrs := rfl
@[simp] theorem storeEntry_wdLastRx (a : Byte) (k : Nat) (v : BitVec 64) (c : BitVec 2) :
    (storeEntry a k v c s).wdLastRx = s.wdLastRx := rfl
@[simp] theorem storeEntry_wdReported (a : Byte) (k : Nat) (v : BitVec 64) (c : BitVec 2) :
    (storeEntry a k v c s).wdReported = s.wdReported := rfl
@[simp] theorem storeEntry_sqCur (a : Byte) (k : Nat) (v : BitVec 64) (c : BitVec 2) :
    (storeEntry a k v c s).sqCur = s.sqCur := rfl
@[simp] theorem storeEntry_sqP1 (a : Byte) (k : Nat) (v : BitVec 64) (c : BitVec 2) :
    (storeEntry a k v c s).sqP1 = s.sqP1 := rfl
@[simp] theorem storeEntry_sqP2 (a : Byte) (k : Nat) (v : BitVec 64) (c : BitVec 2) :
    (storeEntry a k v c s).sqP2 = s.sqP2 := rfl
@[simp] theorem storeEntry_sqIdleNext (a : Byte) (k : Nat) (v : BitVec 64) (c : BitVec 2) :
    (storeEntry a k v c s).sqIdleNext = s.sqIdleNext := rfl
@[simp] theorem storeEntry_sqValIdx (a : Byte) (k : Nat) (v : BitVec 64) (c : BitVec 2) :
    (storeEntry a k v c s).sqValIdx = s.sqValIdx := rfl
@[simp] theorem storeEntry_sqAwaiting (a : Byte) (k : Nat) (v : BitVec 64) (c : BitVec 2) :
    (storeEntry a k v c s).sqAwaiting = s.sqAwaiting := rfl
@[simp] theorem storeEntry_sqSendTime (a : Byte) (k : Nat) (v : BitVec 64) (c : BitVec 2) :
    (storeEntry a k v c s).sqSendTime = s.sqSendTime := rfl
@[simp] theorem storeEntry_sqOutCmd (a : Byte) (k : Nat) (v : BitVec 64) (c : BitVec 2) :
    (storeEntry a k v c s).sqOutCmd = s.sqOutCmd := rfl
@[simp] theorem storeEntry_sqOutNum (a : Byte) (k : Nat) (v : BitVec 64) (c : BitVec 2) :
    (storeEntry a k v c s).sqOutNum = s.sqOutNum := rfl
@[simp] theorem storeEntry_sqSeqComplete (a : Byte) (k : Nat) (v : BitVec 64) (c : BitVec 2) :
    (storeEntry a k v c s).sqSeqComplete = s.sqSeqComplete := rfl
@[simp] theorem storeEntry_sqNActive (a : Byte) (k : Nat) (v : BitVec 64) (c : BitVec 2) :
    (storeEntry a k v c s).sqNActive = s.sqNActive := rfl
@[simp] theorem storeEntry_sqActive (a : Byte) (k : Nat) (v : BitVec 64) (c : BitVec 2) :
    (storeEntry a k v c s).sqActive = s.sqActive := rfl
@[simp] theorem storeEntry_sqInvCursor (a : Byte) (k : Nat) (v : BitVec 64) (c : BitVec 2) :
    (storeEntry a k v c s).sqInvCursor = s.sqInvCursor := rfl
@[simp] theorem storeEntry_sqAef (a : Byte) (k : Nat) (v : BitVec 64) (c : BitVec 2) :
    (storeEntry a k v c s).sqAef = s.sqAef := rfl
@[simp] theorem storeEntry_sqZeroWarned (a : Byte) (k : Nat) (v : BitVec 64) (c : BitVec 2) :
    (storeEntry a k v c s).sqZeroWarned = s.sqZeroWarned := rfl
@[simp] theorem storeEntry_mtVal (a : Byte) (k : Nat) (v : BitVec 64) (c : BitVec 2) :
    (storeEntry a k v c s).mtVal = s.mtVal.modify (a.toNat - 1) fun row => row.set k v := rfl
@[simp] theorem storeEntry_mtRej (a : Byte) (k : Nat) (v : BitVec 64) (c : BitVec 2) :
    (storeEntry a k v c s).mtRej = s.mtRej.modify (a.toNat - 1) fun row => row.set k c := rfl
@[simp] theorem storeEntry_qEnt (a : Byte) (k : Nat) (v : BitVec 64) (c : BitVec 2) :
    (storeEntry a k v c s).qEnt = s.qEnt := rfl
@[simp] theorem storeEntry_qHead (a : Byte) (k : Nat) (v : BitVec 64) (c : BitVec 2) :
    (storeEntry a k v c s).qHead = s.qHead := rfl
@[simp] theorem storeEntry_qTail (a : Byte) (k : Nat) (v : BitVec 64) (c : BitVec 2) :
    (storeEntry a k v c s).qTail = s.qTail := rfl
@[simp] theorem storeEntry_qCount (a : Byte) (k : Nat) (v : BitVec 64) (c : BitVec 2) :
    (storeEntry a k v c s).qCount = s.qCount := rfl

/-! ## `rearm` -/

@[simp] theorem rearm_params : (rearm s).params = s.params := rfl
@[simp] theorem rearm_inq : (rearm s).inq = s.inq := rfl
@[simp] theorem rearm_now : (rearm s).now = s.now := rfl
@[simp] theorem rearm_outp : (rearm s).outp = s.outp := rfl
@[simp] theorem rearm_sysLive : (rearm s).sysLive = s.sysLive := rfl
@[simp] theorem rearm_cfgInvCount : (rearm s).cfgInvCount = s.cfgInvCount := rfl
@[simp] theorem rearm_cfgAutoAef : (rearm s).cfgAutoAef = s.cfgAutoAef := rfl
@[simp] theorem rearm_cfgDebug : (rearm s).cfgDebug = s.cfgDebug := rfl
@[simp] theorem rearm_faPos : (rearm s).faPos = s.faPos := rfl
@[simp] theorem rearm_faBuf : (rearm s).faBuf = s.faBuf := rfl
@[simp] theorem rearm_faSyncErrs : (rearm s).faSyncErrs = s.faSyncErrs := rfl
@[simp] theorem rearm_wdLastRx : (rearm s).wdLastRx = s.now := rfl
@[simp] theorem rearm_wdReported : (rearm s).wdReported = false := rfl
@[simp] theorem rearm_sqCur : (rearm s).sqCur = s.sqCur := rfl
@[simp] theorem rearm_sqP1 : (rearm s).sqP1 = s.sqP1 := rfl
@[simp] theorem rearm_sqP2 : (rearm s).sqP2 = s.sqP2 := rfl
@[simp] theorem rearm_sqIdleNext : (rearm s).sqIdleNext = s.sqIdleNext := rfl
@[simp] theorem rearm_sqValIdx : (rearm s).sqValIdx = s.sqValIdx := rfl
@[simp] theorem rearm_sqAwaiting : (rearm s).sqAwaiting = s.sqAwaiting := rfl
@[simp] theorem rearm_sqSendTime : (rearm s).sqSendTime = s.sqSendTime := rfl
@[simp] theorem rearm_sqOutCmd : (rearm s).sqOutCmd = s.sqOutCmd := rfl
@[simp] theorem rearm_sqOutNum : (rearm s).sqOutNum = s.sqOutNum := rfl
@[simp] theorem rearm_sqSeqComplete : (rearm s).sqSeqComplete = s.sqSeqComplete := rfl
@[simp] theorem rearm_sqNActive : (rearm s).sqNActive = s.sqNActive := rfl
@[simp] theorem rearm_sqActive : (rearm s).sqActive = s.sqActive := rfl
@[simp] theorem rearm_sqInvCursor : (rearm s).sqInvCursor = s.sqInvCursor := rfl
@[simp] theorem rearm_sqAef : (rearm s).sqAef = s.sqAef := rfl
@[simp] theorem rearm_sqZeroWarned : (rearm s).sqZeroWarned = s.sqZeroWarned := rfl
@[simp] theorem rearm_mtVal : (rearm s).mtVal = s.mtVal := rfl
@[simp] theorem rearm_mtRej : (rearm s).mtRej = s.mtRej := rfl
@[simp] theorem rearm_qEnt : (rearm s).qEnt = s.qEnt := rfl
@[simp] theorem rearm_qHead : (rearm s).qHead = s.qHead := rfl
@[simp] theorem rearm_qTail : (rearm s).qTail = s.qTail := rfl
@[simp] theorem rearm_qCount : (rearm s).qCount = s.qCount := rfl

/-! ## `clearAwaiting` -/

@[simp] theorem clearAwaiting_params : (clearAwaiting s).params = s.params := rfl
@[simp] theorem clearAwaiting_inq : (clearAwaiting s).inq = s.inq := rfl
@[simp] theorem clearAwaiting_now : (clearAwaiting s).now = s.now := rfl
@[simp] theorem clearAwaiting_outp : (clearAwaiting s).outp = s.outp := rfl
@[simp] theorem clearAwaiting_sysLive : (clearAwaiting s).sysLive = s.sysLive := rfl
@[simp] theorem clearAwaiting_cfgInvCount : (clearAwaiting s).cfgInvCount = s.cfgInvCount := rfl
@[simp] theorem clearAwaiting_cfgAutoAef : (clearAwaiting s).cfgAutoAef = s.cfgAutoAef := rfl
@[simp] theorem clearAwaiting_cfgDebug : (clearAwaiting s).cfgDebug = s.cfgDebug := rfl
@[simp] theorem clearAwaiting_faPos : (clearAwaiting s).faPos = s.faPos := rfl
@[simp] theorem clearAwaiting_faBuf : (clearAwaiting s).faBuf = s.faBuf := rfl
@[simp] theorem clearAwaiting_faSyncErrs : (clearAwaiting s).faSyncErrs = s.faSyncErrs := rfl
@[simp] theorem clearAwaiting_wdLastRx : (clearAwaiting s).wdLastRx = s.wdLastRx := rfl
@[simp] theorem clearAwaiting_wdReported : (clearAwaiting s).wdReported = s.wdReported := rfl
@[simp] theorem clearAwaiting_sqCur : (clearAwaiting s).sqCur = s.sqCur := rfl
@[simp] theorem clearAwaiting_sqP1 : (clearAwaiting s).sqP1 = s.sqP1 := rfl
@[simp] theorem clearAwaiting_sqP2 : (clearAwaiting s).sqP2 = s.sqP2 := rfl
@[simp] theorem clearAwaiting_sqIdleNext : (clearAwaiting s).sqIdleNext = s.sqIdleNext := rfl
@[simp] theorem clearAwaiting_sqValIdx : (clearAwaiting s).sqValIdx = s.sqValIdx := rfl
@[simp] theorem clearAwaiting_sqAwaiting : (clearAwaiting s).sqAwaiting = false := rfl
@[simp] theorem clearAwaiting_sqSendTime : (clearAwaiting s).sqSendTime = s.sqSendTime := rfl
@[simp] theorem clearAwaiting_sqOutCmd : (clearAwaiting s).sqOutCmd = s.sqOutCmd := rfl
@[simp] theorem clearAwaiting_sqOutNum : (clearAwaiting s).sqOutNum = s.sqOutNum := rfl
@[simp] theorem clearAwaiting_sqSeqComplete : (clearAwaiting s).sqSeqComplete = s.sqSeqComplete := rfl
@[simp] theorem clearAwaiting_sqNActive : (clearAwaiting s).sqNActive = s.sqNActive := rfl
@[simp] theorem clearAwaiting_sqActive : (clearAwaiting s).sqActive = s.sqActive := rfl
@[simp] theorem clearAwaiting_sqInvCursor : (clearAwaiting s).sqInvCursor = s.sqInvCursor := rfl
@[simp] theorem clearAwaiting_sqAef : (clearAwaiting s).sqAef = s.sqAef := rfl
@[simp] theorem clearAwaiting_sqZeroWarned : (clearAwaiting s).sqZeroWarned = s.sqZeroWarned := rfl
@[simp] theorem clearAwaiting_mtVal : (clearAwaiting s).mtVal = s.mtVal := rfl
@[simp] theorem clearAwaiting_mtRej : (clearAwaiting s).mtRej = s.mtRej := rfl
@[simp] theorem clearAwaiting_qEnt : (clearAwaiting s).qEnt = s.qEnt := rfl
@[simp] theorem clearAwaiting_qHead : (clearAwaiting s).qHead = s.qHead := rfl
@[simp] theorem clearAwaiting_qTail : (clearAwaiting s).qTail = s.qTail := rfl
@[simp] theorem clearAwaiting_qCount : (clearAwaiting s).qCount = s.qCount := rfl

/-! ## `commit` -/

@[simp] theorem commit_params (dev num cmd : Byte) (pl : List Byte) :
    (commit dev num cmd pl s).params = s.params := rfl
@[simp] theorem commit_inq (dev num cmd : Byte) (pl : List Byte) : (commit dev num cmd pl s).inq = s.inq := rfl
@[simp] theorem commit_now (dev num cmd : Byte) (pl : List Byte) : (commit dev num cmd pl s).now = s.now := rfl
@[simp] theorem commit_outp (dev num cmd : Byte) (pl : List Byte) :
    (commit dev num cmd pl s).outp = s.outp ++ [.tx (frame dev num cmd pl)] := rfl
@[simp] theorem commit_sysLive (dev num cmd : Byte) (pl : List Byte) :
    (commit dev num cmd pl s).sysLive = s.sysLive := rfl
@[simp] theorem commit_cfgInvCount (dev num cmd : Byte) (pl : List Byte) :
    (commit dev num cmd pl s).cfgInvCount = s.cfgInvCount := rfl
@[simp] theorem commit_cfgAutoAef (dev num cmd : Byte) (pl : List Byte) :
    (commit dev num cmd pl s).cfgAutoAef = s.cfgAutoAef := rfl
@[simp] theorem commit_cfgDebug (dev num cmd : Byte) (pl : List Byte) :
    (commit dev num cmd pl s).cfgDebug = s.cfgDebug := rfl
@[simp] theorem commit_faPos (dev num cmd : Byte) (pl : List Byte) : (commit dev num cmd pl s).faPos = s.faPos := rfl
@[simp] theorem commit_faBuf (dev num cmd : Byte) (pl : List Byte) : (commit dev num cmd pl s).faBuf = s.faBuf := rfl
@[simp] theorem commit_faSyncErrs (dev num cmd : Byte) (pl : List Byte) :
    (commit dev num cmd pl s).faSyncErrs = s.faSyncErrs := rfl
@[simp] theorem commit_wdLastRx (dev num cmd : Byte) (pl : List Byte) :
    (commit dev num cmd pl s).wdLastRx = s.wdLastRx := rfl
@[simp] theorem commit_wdReported (dev num cmd : Byte) (pl : List Byte) :
    (commit dev num cmd pl s).wdReported = s.wdReported := rfl
@[simp] theorem commit_sqCur (dev num cmd : Byte) (pl : List Byte) : (commit dev num cmd pl s).sqCur = s.sqCur := rfl
@[simp] theorem commit_sqP1 (dev num cmd : Byte) (pl : List Byte) : (commit dev num cmd pl s).sqP1 = s.sqP1 := rfl
@[simp] theorem commit_sqP2 (dev num cmd : Byte) (pl : List Byte) : (commit dev num cmd pl s).sqP2 = s.sqP2 := rfl
@[simp] theorem commit_sqIdleNext (dev num cmd : Byte) (pl : List Byte) :
    (commit dev num cmd pl s).sqIdleNext = s.sqIdleNext := rfl
@[simp] theorem commit_sqValIdx (dev num cmd : Byte) (pl : List Byte) :
    (commit dev num cmd pl s).sqValIdx = s.sqValIdx := rfl
@[simp] theorem commit_sqAwaiting (dev num cmd : Byte) (pl : List Byte) :
    (commit dev num cmd pl s).sqAwaiting = true := rfl
@[simp] theorem commit_sqSendTime (dev num cmd : Byte) (pl : List Byte) :
    (commit dev num cmd pl s).sqSendTime = s.now := rfl
@[simp] theorem commit_sqOutCmd (dev num cmd : Byte) (pl : List Byte) :
    (commit dev num cmd pl s).sqOutCmd = cmd := rfl
@[simp] theorem commit_sqOutNum (dev num cmd : Byte) (pl : List Byte) :
    (commit dev num cmd pl s).sqOutNum = num := rfl
@[simp] theorem commit_sqSeqComplete (dev num cmd : Byte) (pl : List Byte) :
    (commit dev num cmd pl s).sqSeqComplete = s.sqSeqComplete := rfl
@[simp] theorem commit_sqNActive (dev num cmd : Byte) (pl : List Byte) :
    (commit dev num cmd pl s).sqNActive = s.sqNActive := rfl
@[simp] theorem commit_sqActive (dev num cmd : Byte) (pl : List Byte) :
    (commit dev num cmd pl s).sqActive = s.sqActive := rfl
@[simp] theorem commit_sqInvCursor (dev num cmd : Byte) (pl : List Byte) :
    (commit dev num cmd pl s).sqInvCursor = s.sqInvCursor := rfl
@[simp] theorem commit_sqAef (dev num cmd : Byte) (pl : List Byte) : (commit dev num cmd pl s).sqAef = s.sqAef := rfl
@[simp] theorem commit_sqZeroWarned (dev num cmd : Byte) (pl : List Byte) :
    (commit dev num cmd pl s).sqZeroWarned = s.sqZeroWarned := rfl
@[simp] theorem commit_mtVal (dev num cmd : Byte) (pl : List Byte) : (commit dev num cmd pl s).mtVal = s.mtVal := rfl
@[simp] theorem commit_mtRej (dev num cmd : Byte) (pl : List Byte) : (commit dev num cmd pl s).mtRej = s.mtRej := rfl
@[simp] theorem commit_qEnt (dev num cmd : Byte) (pl : List Byte) : (commit dev num cmd pl s).qEnt = s.qEnt := rfl
@[simp] theorem commit_qHead (dev num cmd : Byte) (pl : List Byte) : (commit dev num cmd pl s).qHead = s.qHead := rfl
@[simp] theorem commit_qTail (dev num cmd : Byte) (pl : List Byte) : (commit dev num cmd pl s).qTail = s.qTail := rfl
@[simp] theorem commit_qCount (dev num cmd : Byte) (pl : List Byte) :
    (commit dev num cmd pl s).qCount = s.qCount := rfl

/-! ## `completeSequence` -/

@[simp] theorem completeSequence_params : (completeSequence s).params = s.params := rfl
@[simp] theorem completeSequence_inq : (completeSequence s).inq = s.inq := rfl
@[simp] theorem completeSequence_now : (completeSequence s).now = s.now := rfl
@[simp] theorem completeSequence_outp : (completeSequence s).outp = s.outp := rfl
@[simp] theorem completeSequence_sysLive : (completeSequence s).sysLive = s.sysLive := rfl
@[simp] theorem completeSequence_cfgInvCount : (completeSequence s).cfgInvCount = s.cfgInvCount := rfl
@[simp] theorem completeSequence_cfgAutoAef : (completeSequence s).cfgAutoAef = s.cfgAutoAef := rfl
@[simp] theorem completeSequence_cfgDebug : (completeSequence s).cfgDebug = s.cfgDebug := rfl
@[simp] theorem completeSequence_faPos : (completeSequence s).faPos = s.faPos := rfl
@[simp] theorem completeSequence_faBuf : (completeSequence s).faBuf = s.faBuf := rfl
@[simp] theorem completeSequence_faSyncErrs : (completeSequence s).faSyncErrs = s.faSyncErrs := rfl
@[simp] theorem completeSequence_wdLastRx : (completeSequence s).wdLastRx = s.wdLastRx := rfl
@[simp] theorem completeSequence_wdReported : (completeSequence s).wdReported = s.wdReported := rfl
@[simp] theorem completeSequence_sqCur : (completeSequence s).sqCur = s.sqCur := rfl
@[simp] theorem completeSequence_sqP1 : (completeSequence s).sqP1 = s.sqP1 := rfl
@[simp] theorem completeSequence_sqP2 : (completeSequence s).sqP2 = s.sqP2 := rfl
@[simp] theorem completeSequence_sqIdleNext : (completeSequence s).sqIdleNext = s.sqIdleNext := rfl
@[simp] theorem completeSequence_sqValIdx : (completeSequence s).sqValIdx = s.sqValIdx := rfl
@[simp] theorem completeSequence_sqAwaiting : (completeSequence s).sqAwaiting = s.sqAwaiting := rfl
@[simp] theorem completeSequence_sqSendTime : (completeSequence s).sqSendTime = s.sqSendTime := rfl
@[simp] theorem completeSequence_sqOutCmd : (completeSequence s).sqOutCmd = s.sqOutCmd := rfl
@[simp] theorem completeSequence_sqOutNum : (completeSequence s).sqOutNum = s.sqOutNum := rfl
@[simp] theorem completeSequence_sqSeqComplete : (completeSequence s).sqSeqComplete = true := rfl
@[simp] theorem completeSequence_sqNActive : (completeSequence s).sqNActive = s.sqNActive := rfl
@[simp] theorem completeSequence_sqActive : (completeSequence s).sqActive = s.sqActive := rfl
@[simp] theorem completeSequence_sqInvCursor : (completeSequence s).sqInvCursor = s.sqInvCursor := rfl
@[simp] theorem completeSequence_sqAef : (completeSequence s).sqAef = s.sqAef := rfl
@[simp] theorem completeSequence_sqZeroWarned : (completeSequence s).sqZeroWarned = s.sqZeroWarned := rfl
@[simp] theorem completeSequence_mtVal : (completeSequence s).mtVal = s.mtVal := rfl
@[simp] theorem completeSequence_mtRej : (completeSequence s).mtRej = s.mtRej := rfl
@[simp] theorem completeSequence_qEnt : (completeSequence s).qEnt = s.qEnt := rfl
@[simp] theorem completeSequence_qHead : (completeSequence s).qHead = s.qHead := rfl
@[simp] theorem completeSequence_qTail : (completeSequence s).qTail = s.qTail := rfl
@[simp] theorem completeSequence_qCount : (completeSequence s).qCount = s.qCount := rfl

/-! ## `aefDone` -/

@[simp] theorem aefDone_params (ok : Bool) : (aefDone ok s).params = s.params := rfl
@[simp] theorem aefDone_inq (ok : Bool) : (aefDone ok s).inq = s.inq := rfl
@[simp] theorem aefDone_now (ok : Bool) : (aefDone ok s).now = s.now := rfl
@[simp] theorem aefDone_outp (ok : Bool) :
    (aefDone ok s).outp = s.outp ++ [logRecord (.aefResult ok (decide (s.sqAef = .init)))] := rfl
@[simp] theorem aefDone_sysLive (ok : Bool) : (aefDone ok s).sysLive = s.sysLive := rfl
@[simp] theorem aefDone_cfgInvCount (ok : Bool) : (aefDone ok s).cfgInvCount = s.cfgInvCount := rfl
@[simp] theorem aefDone_cfgAutoAef (ok : Bool) : (aefDone ok s).cfgAutoAef = s.cfgAutoAef := rfl
@[simp] theorem aefDone_cfgDebug (ok : Bool) : (aefDone ok s).cfgDebug = s.cfgDebug := rfl
@[simp] theorem aefDone_faPos (ok : Bool) : (aefDone ok s).faPos = s.faPos := rfl
@[simp] theorem aefDone_faBuf (ok : Bool) : (aefDone ok s).faBuf = s.faBuf := rfl
@[simp] theorem aefDone_faSyncErrs (ok : Bool) : (aefDone ok s).faSyncErrs = s.faSyncErrs := rfl
@[simp] theorem aefDone_wdLastRx (ok : Bool) : (aefDone ok s).wdLastRx = s.wdLastRx := rfl
@[simp] theorem aefDone_wdReported (ok : Bool) : (aefDone ok s).wdReported = s.wdReported := rfl
@[simp] theorem aefDone_sqCur (ok : Bool) : (aefDone ok s).sqCur = s.sqCur := rfl
@[simp] theorem aefDone_sqP1 (ok : Bool) : (aefDone ok s).sqP1 = s.sqP1 := rfl
@[simp] theorem aefDone_sqP2 (ok : Bool) : (aefDone ok s).sqP2 = s.sqP2 := rfl
@[simp] theorem aefDone_sqIdleNext (ok : Bool) : (aefDone ok s).sqIdleNext = s.sqIdleNext := rfl
@[simp] theorem aefDone_sqValIdx (ok : Bool) : (aefDone ok s).sqValIdx = s.sqValIdx := rfl
@[simp] theorem aefDone_sqAwaiting (ok : Bool) : (aefDone ok s).sqAwaiting = s.sqAwaiting := rfl
@[simp] theorem aefDone_sqSendTime (ok : Bool) : (aefDone ok s).sqSendTime = s.sqSendTime := rfl
@[simp] theorem aefDone_sqOutCmd (ok : Bool) : (aefDone ok s).sqOutCmd = s.sqOutCmd := rfl
@[simp] theorem aefDone_sqOutNum (ok : Bool) : (aefDone ok s).sqOutNum = s.sqOutNum := rfl
@[simp] theorem aefDone_sqSeqComplete (ok : Bool) : (aefDone ok s).sqSeqComplete = true := rfl
@[simp] theorem aefDone_sqNActive (ok : Bool) : (aefDone ok s).sqNActive = s.sqNActive := rfl
@[simp] theorem aefDone_sqActive (ok : Bool) : (aefDone ok s).sqActive = s.sqActive := rfl
@[simp] theorem aefDone_sqInvCursor (ok : Bool) : (aefDone ok s).sqInvCursor = s.sqInvCursor := rfl
@[simp] theorem aefDone_sqAef (ok : Bool) : (aefDone ok s).sqAef = .complete := rfl
@[simp] theorem aefDone_sqZeroWarned (ok : Bool) : (aefDone ok s).sqZeroWarned = s.sqZeroWarned := rfl
@[simp] theorem aefDone_mtVal (ok : Bool) : (aefDone ok s).mtVal = s.mtVal := rfl
@[simp] theorem aefDone_mtRej (ok : Bool) : (aefDone ok s).mtRej = s.mtRej := rfl
@[simp] theorem aefDone_qEnt (ok : Bool) : (aefDone ok s).qEnt = s.qEnt := rfl
@[simp] theorem aefDone_qHead (ok : Bool) : (aefDone ok s).qHead = s.qHead := rfl
@[simp] theorem aefDone_qTail (ok : Bool) : (aefDone ok s).qTail = s.qTail := rfl
@[simp] theorem aefDone_qCount (ok : Bool) : (aefDone ok s).qCount = s.qCount := rfl

/-! ## `beginSequence` -/

@[simp] theorem beginSequence_params (c : CmdKind) (p1 p2 : Option Byte) :
    (beginSequence c p1 p2 s).params = s.params := rfl
@[simp] theorem beginSequence_inq (c : CmdKind) (p1 p2 : Option Byte) : (beginSequence c p1 p2 s).inq = s.inq := rfl
@[simp] theorem beginSequence_now (c : CmdKind) (p1 p2 : Option Byte) : (beginSequence c p1 p2 s).now = s.now := rfl
@[simp] theorem beginSequence_outp (c : CmdKind) (p1 p2 : Option Byte) :
    (beginSequence c p1 p2 s).outp = s.outp := rfl
@[simp] theorem beginSequence_sysLive (c : CmdKind) (p1 p2 : Option Byte) :
    (beginSequence c p1 p2 s).sysLive = s.sysLive := rfl
@[simp] theorem beginSequence_cfgInvCount (c : CmdKind) (p1 p2 : Option Byte) :
    (beginSequence c p1 p2 s).cfgInvCount = s.cfgInvCount := rfl
@[simp] theorem beginSequence_cfgAutoAef (c : CmdKind) (p1 p2 : Option Byte) :
    (beginSequence c p1 p2 s).cfgAutoAef = s.cfgAutoAef := rfl
@[simp] theorem beginSequence_cfgDebug (c : CmdKind) (p1 p2 : Option Byte) :
    (beginSequence c p1 p2 s).cfgDebug = s.cfgDebug := rfl
@[simp] theorem beginSequence_faPos (c : CmdKind) (p1 p2 : Option Byte) :
    (beginSequence c p1 p2 s).faPos = s.faPos := rfl
@[simp] theorem beginSequence_faBuf (c : CmdKind) (p1 p2 : Option Byte) :
    (beginSequence c p1 p2 s).faBuf = s.faBuf := rfl
@[simp] theorem beginSequence_faSyncErrs (c : CmdKind) (p1 p2 : Option Byte) :
    (beginSequence c p1 p2 s).faSyncErrs = s.faSyncErrs := rfl
@[simp] theorem beginSequence_wdLastRx (c : CmdKind) (p1 p2 : Option Byte) :
    (beginSequence c p1 p2 s).wdLastRx = s.wdLastRx := rfl
@[simp] theorem beginSequence_wdReported (c : CmdKind) (p1 p2 : Option Byte) :
    (beginSequence c p1 p2 s).wdReported = s.wdReported := rfl
@[simp] theorem beginSequence_sqCur (c : CmdKind) (p1 p2 : Option Byte) : (beginSequence c p1 p2 s).sqCur = c := rfl
@[simp] theorem beginSequence_sqP1 (c : CmdKind) (p1 p2 : Option Byte) : (beginSequence c p1 p2 s).sqP1 = p1 := rfl
@[simp] theorem beginSequence_sqP2 (c : CmdKind) (p1 p2 : Option Byte) : (beginSequence c p1 p2 s).sqP2 = p2 := rfl
@[simp] theorem beginSequence_sqIdleNext (c : CmdKind) (p1 p2 : Option Byte) :
    (beginSequence c p1 p2 s).sqIdleNext = s.sqIdleNext := rfl
@[simp] theorem beginSequence_sqValIdx (c : CmdKind) (p1 p2 : Option Byte) :
    (beginSequence c p1 p2 s).sqValIdx = 0 := rfl
@[simp] theorem beginSequence_sqAwaiting (c : CmdKind) (p1 p2 : Option Byte) :
    (beginSequence c p1 p2 s).sqAwaiting = s.sqAwaiting := rfl
@[simp] theorem beginSequence_sqSendTime (c : CmdKind) (p1 p2 : Option Byte) :
    (beginSequence c p1 p2 s).sqSendTime = s.sqSendTime := rfl
@[simp] theorem beginSequence_sqOutCmd (c : CmdKind) (p1 p2 : Option Byte) :
    (beginSequence c p1 p2 s).sqOutCmd = s.sqOutCmd := rfl
@[simp] theorem beginSequence_sqOutNum (c : CmdKind) (p1 p2 : Option Byte) :
    (beginSequence c p1 p2 s).sqOutNum = s.sqOutNum := rfl
@[simp] theorem beginSequence_sqSeqComplete (c : CmdKind) (p1 p2 : Option Byte) :
    (beginSequence c p1 p2 s).sqSeqComplete = false := rfl
@[simp] theorem beginSequence_sqNActive (c : CmdKind) (p1 p2 : Option Byte) :
    (beginSequence c p1 p2 s).sqNActive = s.sqNActive := rfl
@[simp] theorem beginSequence_sqActive (c : CmdKind) (p1 p2 : Option Byte) :
    (beginSequence c p1 p2 s).sqActive = s.sqActive := rfl
@[simp] theorem beginSequence_sqInvCursor (c : CmdKind) (p1 p2 : Option Byte) :
    (beginSequence c p1 p2 s).sqInvCursor = s.sqInvCursor := rfl
@[simp] theorem beginSequence_sqAef (c : CmdKind) (p1 p2 : Option Byte) :
    (beginSequence c p1 p2 s).sqAef = s.sqAef := rfl
@[simp] theorem beginSequence_sqZeroWarned (c : CmdKind) (p1 p2 : Option Byte) :
    (beginSequence c p1 p2 s).sqZeroWarned = s.sqZeroWarned := rfl
@[simp] theorem beginSequence_mtVal (c : CmdKind) (p1 p2 : Option Byte) :
    (beginSequence c p1 p2 s).mtVal = s.mtVal := rfl
@[simp] theorem beginSequence_mtRej (c : CmdKind) (p1 p2 : Option Byte) :
    (beginSequence c p1 p2 s).mtRej = s.mtRej := rfl
@[simp] theorem beginSequence_qEnt (c : CmdKind) (p1 p2 : Option Byte) :
    (beginSequence c p1 p2 s).qEnt = s.qEnt := rfl
@[simp] theorem beginSequence_qHead (c : CmdKind) (p1 p2 : Option Byte) :
    (beginSequence c p1 p2 s).qHead = s.qHead := rfl
@[simp] theorem beginSequence_qTail (c : CmdKind) (p1 p2 : Option Byte) :
    (beginSequence c p1 p2 s).qTail = s.qTail := rfl
@[simp] theorem beginSequence_qCount (c : CmdKind) (p1 p2 : Option Byte) :
    (beginSequence c p1 p2 s).qCount = s.qCount := rfl

/-! ## `commitDiscovery` -/

@[simp] theorem commitDiscovery_params (l : List Byte) : (commitDiscovery l s).params = s.params := rfl
@[simp] theorem commitDiscovery_inq (l : List Byte) : (commitDiscovery l s).inq = s.inq := rfl
@[simp] theorem commitDiscovery_now (l : List Byte) : (commitDiscovery l s).now = s.now := rfl
@[simp] theorem commitDiscovery_outp (l : List Byte) : (commitDiscovery l s).outp = s.outp := rfl
@[simp] theorem commitDiscovery_sysLive (l : List Byte) : (commitDiscovery l s).sysLive = s.sysLive := rfl
@[simp] theorem commitDiscovery_cfgInvCount (l : List Byte) : (commitDiscovery l s).cfgInvCount = s.cfgInvCount := rfl
@[simp] theorem commitDiscovery_cfgAutoAef (l : List Byte) : (commitDiscovery l s).cfgAutoAef = s.cfgAutoAef := rfl
@[simp] theorem commitDiscovery_cfgDebug (l : List Byte) : (commitDiscovery l s).cfgDebug = s.cfgDebug := rfl
@[simp] theorem commitDiscovery_faPos (l : List Byte) : (commitDiscovery l s).faPos = s.faPos := rfl
@[simp] theorem commitDiscovery_faBuf (l : List Byte) : (commitDiscovery l s).faBuf = s.faBuf := rfl
@[simp] theorem commitDiscovery_faSyncErrs (l : List Byte) : (commitDiscovery l s).faSyncErrs = s.faSyncErrs := rfl
@[simp] theorem commitDiscovery_wdLastRx (l : List Byte) : (commitDiscovery l s).wdLastRx = s.wdLastRx := rfl
@[simp] theorem commitDiscovery_wdReported (l : List Byte) : (commitDiscovery l s).wdReported = s.wdReported := rfl
@[simp] theorem commitDiscovery_sqCur (l : List Byte) : (commitDiscovery l s).sqCur = s.sqCur := rfl
@[simp] theorem commitDiscovery_sqP1 (l : List Byte) : (commitDiscovery l s).sqP1 = s.sqP1 := rfl
@[simp] theorem commitDiscovery_sqP2 (l : List Byte) : (commitDiscovery l s).sqP2 = s.sqP2 := rfl
@[simp] theorem commitDiscovery_sqIdleNext (l : List Byte) :
    (commitDiscovery l s).sqIdleNext = if 0 < l.length then .gval else .gai := rfl
@[simp] theorem commitDiscovery_sqValIdx (l : List Byte) : (commitDiscovery l s).sqValIdx = s.sqValIdx := rfl
@[simp] theorem commitDiscovery_sqAwaiting (l : List Byte) : (commitDiscovery l s).sqAwaiting = s.sqAwaiting := rfl
@[simp] theorem commitDiscovery_sqSendTime (l : List Byte) : (commitDiscovery l s).sqSendTime = s.sqSendTime := rfl
@[simp] theorem commitDiscovery_sqOutCmd (l : List Byte) : (commitDiscovery l s).sqOutCmd = s.sqOutCmd := rfl
@[simp] theorem commitDiscovery_sqOutNum (l : List Byte) : (commitDiscovery l s).sqOutNum = s.sqOutNum := rfl
@[simp] theorem commitDiscovery_sqSeqComplete (l : List Byte) :
    (commitDiscovery l s).sqSeqComplete = s.sqSeqComplete := rfl
@[simp] theorem commitDiscovery_sqNActive (l : List Byte) : (commitDiscovery l s).sqNActive = l.length := rfl
@[simp] theorem commitDiscovery_sqActive (l : List Byte) :
    (commitDiscovery l s).sqActive = l ++ s.sqActive.drop l.length := rfl
@[simp] theorem commitDiscovery_sqInvCursor (l : List Byte) :
    (commitDiscovery l s).sqInvCursor = if l.length ≤ s.sqInvCursor then 0 else s.sqInvCursor := rfl
@[simp] theorem commitDiscovery_sqAef (l : List Byte) : (commitDiscovery l s).sqAef = s.sqAef := rfl
@[simp] theorem commitDiscovery_sqZeroWarned (l : List Byte) :
    (commitDiscovery l s).sqZeroWarned = s.sqZeroWarned := rfl
@[simp] theorem commitDiscovery_mtVal (l : List Byte) : (commitDiscovery l s).mtVal = s.mtVal := rfl
@[simp] theorem commitDiscovery_mtRej (l : List Byte) : (commitDiscovery l s).mtRej = s.mtRej := rfl
@[simp] theorem commitDiscovery_qEnt (l : List Byte) : (commitDiscovery l s).qEnt = s.qEnt := rfl
@[simp] theorem commitDiscovery_qHead (l : List Byte) : (commitDiscovery l s).qHead = s.qHead := rfl
@[simp] theorem commitDiscovery_qTail (l : List Byte) : (commitDiscovery l s).qTail = s.qTail := rfl
@[simp] theorem commitDiscovery_qCount (l : List Byte) : (commitDiscovery l s).qCount = s.qCount := rfl

/-! ## `unexpected` -/

@[simp] theorem unexpected_params (dev num cmd : Byte) (pl : List Byte) :
    (unexpected dev num cmd pl s).params = s.params := rfl
@[simp] theorem unexpected_inq (dev num cmd : Byte) (pl : List Byte) :
    (unexpected dev num cmd pl s).inq = s.inq := rfl
@[simp] theorem unexpected_now (dev num cmd : Byte) (pl : List Byte) :
    (unexpected dev num cmd pl s).now = s.now := rfl
@[simp] theorem unexpected_outp (dev num cmd : Byte) (pl : List Byte) :
    (unexpected dev num cmd pl s).outp = s.outp ++ [logRecord (.unexpectedPacket dev num cmd pl.length)] := rfl
@[simp] theorem unexpected_sysLive (dev num cmd : Byte) (pl : List Byte) :
    (unexpected dev num cmd pl s).sysLive = s.sysLive := rfl
@[simp] theorem unexpected_cfgInvCount (dev num cmd : Byte) (pl : List Byte) :
    (unexpected dev num cmd pl s).cfgInvCount = s.cfgInvCount := rfl
@[simp] theorem unexpected_cfgAutoAef (dev num cmd : Byte) (pl : List Byte) :
    (unexpected dev num cmd pl s).cfgAutoAef = s.cfgAutoAef := rfl
@[simp] theorem unexpected_cfgDebug (dev num cmd : Byte) (pl : List Byte) :
    (unexpected dev num cmd pl s).cfgDebug = s.cfgDebug := rfl
@[simp] theorem unexpected_faPos (dev num cmd : Byte) (pl : List Byte) :
    (unexpected dev num cmd pl s).faPos = s.faPos := rfl
@[simp] theorem unexpected_faBuf (dev num cmd : Byte) (pl : List Byte) :
    (unexpected dev num cmd pl s).faBuf = s.faBuf := rfl
@[simp] theorem unexpected_faSyncErrs (dev num cmd : Byte) (pl : List Byte) :
    (unexpected dev num cmd pl s).faSyncErrs = s.faSyncErrs := rfl
@[simp] theorem unexpected_wdLastRx (dev num cmd : Byte) (pl : List Byte) :
    (unexpected dev num cmd pl s).wdLastRx = s.wdLastRx := rfl
@[simp] theorem unexpected_wdReported (dev num cmd : Byte) (pl : List Byte) :
    (unexpected dev num cmd pl s).wdReported = s.wdReported := rfl
@[simp] theorem unexpected_sqCur (dev num cmd : Byte) (pl : List Byte) :
    (unexpected dev num cmd pl s).sqCur = s.sqCur := rfl
@[simp] theorem unexpected_sqP1 (dev num cmd : Byte) (pl : List Byte) :
    (unexpected dev num cmd pl s).sqP1 = s.sqP1 := rfl
@[simp] theorem unexpected_sqP2 (dev num cmd : Byte) (pl : List Byte) :
    (unexpected dev num cmd pl s).sqP2 = s.sqP2 := rfl
@[simp] theorem unexpected_sqIdleNext (dev num cmd : Byte) (pl : List Byte) :
    (unexpected dev num cmd pl s).sqIdleNext = s.sqIdleNext := rfl
@[simp] theorem unexpected_sqValIdx (dev num cmd : Byte) (pl : List Byte) :
    (unexpected dev num cmd pl s).sqValIdx = s.sqValIdx := rfl
@[simp] theorem unexpected_sqAwaiting (dev num cmd : Byte) (pl : List Byte) :
    (unexpected dev num cmd pl s).sqAwaiting = s.sqAwaiting := rfl
@[simp] theorem unexpected_sqSendTime (dev num cmd : Byte) (pl : List Byte) :
    (unexpected dev num cmd pl s).sqSendTime = s.sqSendTime := rfl
@[simp] theorem unexpected_sqOutCmd (dev num cmd : Byte) (pl : List Byte) :
    (unexpected dev num cmd pl s).sqOutCmd = s.sqOutCmd := rfl
@[simp] theorem unexpected_sqOutNum (dev num cmd : Byte) (pl : List Byte) :
    (unexpected dev num cmd pl s).sqOutNum = s.sqOutNum := rfl
@[simp] theorem unexpected_sqSeqComplete (dev num cmd : Byte) (pl : List Byte) :
    (unexpected dev num cmd pl s).sqSeqComplete = s.sqSeqComplete := rfl
@[simp] theorem unexpected_sqNActive (dev num cmd : Byte) (pl : List Byte) :
    (unexpected dev num cmd pl s).sqNActive = s.sqNActive := rfl
@[simp] theorem unexpected_sqActive (dev num cmd : Byte) (pl : List Byte) :
    (unexpected dev num cmd pl s).sqActive = s.sqActive := rfl
@[simp] theorem unexpected_sqInvCursor (dev num cmd : Byte) (pl : List Byte) :
    (unexpected dev num cmd pl s).sqInvCursor = s.sqInvCursor := rfl
@[simp] theorem unexpected_sqAef (dev num cmd : Byte) (pl : List Byte) :
    (unexpected dev num cmd pl s).sqAef = s.sqAef := rfl
@[simp] theorem unexpected_sqZeroWarned (dev num cmd : Byte) (pl : List Byte) :
    (unexpected dev num cmd pl s).sqZeroWarned = s.sqZeroWarned := rfl
@[simp] theorem unexpected_mtVal (dev num cmd : Byte) (pl : List Byte) :
    (unexpected dev num cmd pl s).mtVal = s.mtVal := rfl
@[simp] theorem unexpected_mtRej (dev num cmd : Byte) (pl : List Byte) :
    (unexpected dev num cmd pl s).mtRej = s.mtRej := rfl
@[simp] theorem unexpected_qEnt (dev num cmd : Byte) (pl : List Byte) :
    (unexpected dev num cmd pl s).qEnt = s.qEnt := rfl
@[simp] theorem unexpected_qHead (dev num cmd : Byte) (pl : List Byte) :
    (unexpected dev num cmd pl s).qHead = s.qHead := rfl
@[simp] theorem unexpected_qTail (dev num cmd : Byte) (pl : List Byte) :
    (unexpected dev num cmd pl s).qTail = s.qTail := rfl
@[simp] theorem unexpected_qCount (dev num cmd : Byte) (pl : List Byte) :
    (unexpected dev num cmd pl s).qCount = s.qCount := rfl

/-! ## `accepted` -/

@[simp] theorem accepted_params (t : Txn) (rest : List Txn) : (accepted t rest s).params = s.params := rfl
@[simp] theorem accepted_inq (t : Txn) (rest : List Txn) : (accepted t rest s).inq = rest := rfl
@[simp] theorem accepted_now (t : Txn) (rest : List Txn) : (accepted t rest s).now = t.now := rfl
@[simp] theorem accepted_outp (t : Txn) (rest : List Txn) : (accepted t rest s).outp = [] := rfl
@[simp] theorem accepted_sysLive (t : Txn) (rest : List Txn) : (accepted t rest s).sysLive = s.sysLive := rfl
@[simp] theorem accepted_cfgInvCount (t : Txn) (rest : List Txn) :
    (accepted t rest s).cfgInvCount = s.cfgInvCount := rfl
@[simp] theorem accepted_cfgAutoAef (t : Txn) (rest : List Txn) : (accepted t rest s).cfgAutoAef = s.cfgAutoAef := rfl
@[simp] theorem accepted_cfgDebug (t : Txn) (rest : List Txn) : (accepted t rest s).cfgDebug = s.cfgDebug := rfl
@[simp] theorem accepted_faPos (t : Txn) (rest : List Txn) : (accepted t rest s).faPos = s.faPos := rfl
@[simp] theorem accepted_faBuf (t : Txn) (rest : List Txn) : (accepted t rest s).faBuf = s.faBuf := rfl
@[simp] theorem accepted_faSyncErrs (t : Txn) (rest : List Txn) : (accepted t rest s).faSyncErrs = s.faSyncErrs := rfl
@[simp] theorem accepted_wdLastRx (t : Txn) (rest : List Txn) : (accepted t rest s).wdLastRx = s.wdLastRx := rfl
@[simp] theorem accepted_wdReported (t : Txn) (rest : List Txn) : (accepted t rest s).wdReported = s.wdReported := rfl
@[simp] theorem accepted_sqCur (t : Txn) (rest : List Txn) : (accepted t rest s).sqCur = s.sqCur := rfl
@[simp] theorem accepted_sqP1 (t : Txn) (rest : List Txn) : (accepted t rest s).sqP1 = s.sqP1 := rfl
@[simp] theorem accepted_sqP2 (t : Txn) (rest : List Txn) : (accepted t rest s).sqP2 = s.sqP2 := rfl
@[simp] theorem accepted_sqIdleNext (t : Txn) (rest : List Txn) : (accepted t rest s).sqIdleNext = s.sqIdleNext := rfl
@[simp] theorem accepted_sqValIdx (t : Txn) (rest : List Txn) : (accepted t rest s).sqValIdx = s.sqValIdx := rfl
@[simp] theorem accepted_sqAwaiting (t : Txn) (rest : List Txn) : (accepted t rest s).sqAwaiting = s.sqAwaiting := rfl
@[simp] theorem accepted_sqSendTime (t : Txn) (rest : List Txn) : (accepted t rest s).sqSendTime = s.sqSendTime := rfl
@[simp] theorem accepted_sqOutCmd (t : Txn) (rest : List Txn) : (accepted t rest s).sqOutCmd = s.sqOutCmd := rfl
@[simp] theorem accepted_sqOutNum (t : Txn) (rest : List Txn) : (accepted t rest s).sqOutNum = s.sqOutNum := rfl
@[simp] theorem accepted_sqSeqComplete (t : Txn) (rest : List Txn) :
    (accepted t rest s).sqSeqComplete = s.sqSeqComplete := rfl
@[simp] theorem accepted_sqNActive (t : Txn) (rest : List Txn) : (accepted t rest s).sqNActive = s.sqNActive := rfl
@[simp] theorem accepted_sqActive (t : Txn) (rest : List Txn) : (accepted t rest s).sqActive = s.sqActive := rfl
@[simp] theorem accepted_sqInvCursor (t : Txn) (rest : List Txn) :
    (accepted t rest s).sqInvCursor = s.sqInvCursor := rfl
@[simp] theorem accepted_sqAef (t : Txn) (rest : List Txn) : (accepted t rest s).sqAef = s.sqAef := rfl
@[simp] theorem accepted_sqZeroWarned (t : Txn) (rest : List Txn) :
    (accepted t rest s).sqZeroWarned = s.sqZeroWarned := rfl
@[simp] theorem accepted_mtVal (t : Txn) (rest : List Txn) : (accepted t rest s).mtVal = s.mtVal := rfl
@[simp] theorem accepted_mtRej (t : Txn) (rest : List Txn) : (accepted t rest s).mtRej = s.mtRej := rfl
@[simp] theorem accepted_qEnt (t : Txn) (rest : List Txn) : (accepted t rest s).qEnt = s.qEnt := rfl
@[simp] theorem accepted_qHead (t : Txn) (rest : List Txn) : (accepted t rest s).qHead = s.qHead := rfl
@[simp] theorem accepted_qTail (t : Txn) (rest : List Txn) : (accepted t rest s).qTail = s.qTail := rfl
@[simp] theorem accepted_qCount (t : Txn) (rest : List Txn) : (accepted t rest s).qCount = s.qCount := rfl

/-! ## `idle` -/

@[simp] theorem idle_params : (idle s).params = s.params := rfl
@[simp] theorem idle_inq : (idle s).inq = s.inq := rfl
@[simp] theorem idle_now : (idle s).now = s.now := rfl
@[simp] theorem idle_outp : (idle s).outp = [] := rfl
@[simp] theorem idle_sysLive : (idle s).sysLive = s.sysLive := rfl
@[simp] theorem idle_cfgInvCount : (idle s).cfgInvCount = s.cfgInvCount := rfl
@[simp] theorem idle_cfgAutoAef : (idle s).cfgAutoAef = s.cfgAutoAef := rfl
@[simp] theorem idle_cfgDebug : (idle s).cfgDebug = s.cfgDebug := rfl
@[simp] theorem idle_faPos : (idle s).faPos = s.faPos := rfl
@[simp] theorem idle_faBuf : (idle s).faBuf = s.faBuf := rfl
@[simp] theorem idle_faSyncErrs : (idle s).faSyncErrs = s.faSyncErrs := rfl
@[simp] theorem idle_wdLastRx : (idle s).wdLastRx = s.wdLastRx := rfl
@[simp] theorem idle_wdReported : (idle s).wdReported = s.wdReported := rfl
@[simp] theorem idle_sqCur : (idle s).sqCur = s.sqCur := rfl
@[simp] theorem idle_sqP1 : (idle s).sqP1 = s.sqP1 := rfl
@[simp] theorem idle_sqP2 : (idle s).sqP2 = s.sqP2 := rfl
@[simp] theorem idle_sqIdleNext : (idle s).sqIdleNext = s.sqIdleNext := rfl
@[simp] theorem idle_sqValIdx : (idle s).sqValIdx = s.sqValIdx := rfl
@[simp] theorem idle_sqAwaiting : (idle s).sqAwaiting = s.sqAwaiting := rfl
@[simp] theorem idle_sqSendTime : (idle s).sqSendTime = s.sqSendTime := rfl
@[simp] theorem idle_sqOutCmd : (idle s).sqOutCmd = s.sqOutCmd := rfl
@[simp] theorem idle_sqOutNum : (idle s).sqOutNum = s.sqOutNum := rfl
@[simp] theorem idle_sqSeqComplete : (idle s).sqSeqComplete = s.sqSeqComplete := rfl
@[simp] theorem idle_sqNActive : (idle s).sqNActive = s.sqNActive := rfl
@[simp] theorem idle_sqActive : (idle s).sqActive = s.sqActive := rfl
@[simp] theorem idle_sqInvCursor : (idle s).sqInvCursor = s.sqInvCursor := rfl
@[simp] theorem idle_sqAef : (idle s).sqAef = s.sqAef := rfl
@[simp] theorem idle_sqZeroWarned : (idle s).sqZeroWarned = s.sqZeroWarned := rfl
@[simp] theorem idle_mtVal : (idle s).mtVal = s.mtVal := rfl
@[simp] theorem idle_mtRej : (idle s).mtRej = s.mtRej := rfl
@[simp] theorem idle_qEnt : (idle s).qEnt = s.qEnt := rfl
@[simp] theorem idle_qHead : (idle s).qHead = s.qHead := rfl
@[simp] theorem idle_qTail : (idle s).qTail = s.qTail := rfl
@[simp] theorem idle_qCount : (idle s).qCount = s.qCount := rfl

/-! ## `logOpt` -/

@[simp] theorem logOpt_params (e : Option Event) : (logOpt e s).params = s.params := by cases e <;> rfl
@[simp] theorem logOpt_inq (e : Option Event) : (logOpt e s).inq = s.inq := by cases e <;> rfl
@[simp] theorem logOpt_now (e : Option Event) : (logOpt e s).now = s.now := by cases e <;> rfl
@[simp] theorem logOpt_sysLive (e : Option Event) : (logOpt e s).sysLive = s.sysLive := by cases e <;> rfl
@[simp] theorem logOpt_cfgInvCount (e : Option Event) : (logOpt e s).cfgInvCount = s.cfgInvCount := by cases e <;> rfl
@[simp] theorem logOpt_cfgAutoAef (e : Option Event) : (logOpt e s).cfgAutoAef = s.cfgAutoAef := by cases e <;> rfl
@[simp] theorem logOpt_cfgDebug (e : Option Event) : (logOpt e s).cfgDebug = s.cfgDebug := by cases e <;> rfl
@[simp] theorem logOpt_faPos (e : Option Event) : (logOpt e s).faPos = s.faPos := by cases e <;> rfl
@[simp] theorem logOpt_faBuf (e : Option Event) : (logOpt e s).faBuf = s.faBuf := by cases e <;> rfl
@[simp] theorem logOpt_faSyncErrs (e : Option Event) : (logOpt e s).faSyncErrs = s.faSyncErrs := by cases e <;> rfl
@[simp] theorem logOpt_wdLastRx (e : Option Event) : (logOpt e s).wdLastRx = s.wdLastRx := by cases e <;> rfl
@[simp] theorem logOpt_wdReported (e : Option Event) : (logOpt e s).wdReported = s.wdReported := by cases e <;> rfl
@[simp] theorem logOpt_sqCur (e : Option Event) : (logOpt e s).sqCur = s.sqCur := by cases e <;> rfl
@[simp] theorem logOpt_sqP1 (e : Option Event) : (logOpt e s).sqP1 = s.sqP1 := by cases e <;> rfl
@[simp] theorem logOpt_sqP2 (e : Option Event) : (logOpt e s).sqP2 = s.sqP2 := by cases e <;> rfl
@[simp] theorem logOpt_sqIdleNext (e : Option Event) : (logOpt e s).sqIdleNext = s.sqIdleNext := by cases e <;> rfl
@[simp] theorem logOpt_sqValIdx (e : Option Event) : (logOpt e s).sqValIdx = s.sqValIdx := by cases e <;> rfl
@[simp] theorem logOpt_sqAwaiting (e : Option Event) : (logOpt e s).sqAwaiting = s.sqAwaiting := by cases e <;> rfl
@[simp] theorem logOpt_sqSendTime (e : Option Event) : (logOpt e s).sqSendTime = s.sqSendTime := by cases e <;> rfl
@[simp] theorem logOpt_sqOutCmd (e : Option Event) : (logOpt e s).sqOutCmd = s.sqOutCmd := by cases e <;> rfl
@[simp] theorem logOpt_sqOutNum (e : Option Event) : (logOpt e s).sqOutNum = s.sqOutNum := by cases e <;> rfl
@[simp] theorem logOpt_sqSeqComplete (e : Option Event) : (logOpt e s).sqSeqComplete = s.sqSeqComplete := by cases e <;> rfl
@[simp] theorem logOpt_sqNActive (e : Option Event) : (logOpt e s).sqNActive = s.sqNActive := by cases e <;> rfl
@[simp] theorem logOpt_sqActive (e : Option Event) : (logOpt e s).sqActive = s.sqActive := by cases e <;> rfl
@[simp] theorem logOpt_sqInvCursor (e : Option Event) : (logOpt e s).sqInvCursor = s.sqInvCursor := by cases e <;> rfl
@[simp] theorem logOpt_sqAef (e : Option Event) : (logOpt e s).sqAef = s.sqAef := by cases e <;> rfl
@[simp] theorem logOpt_sqZeroWarned (e : Option Event) : (logOpt e s).sqZeroWarned = s.sqZeroWarned := by cases e <;> rfl
@[simp] theorem logOpt_mtVal (e : Option Event) : (logOpt e s).mtVal = s.mtVal := by cases e <;> rfl
@[simp] theorem logOpt_mtRej (e : Option Event) : (logOpt e s).mtRej = s.mtRej := by cases e <;> rfl
@[simp] theorem logOpt_qEnt (e : Option Event) : (logOpt e s).qEnt = s.qEnt := by cases e <;> rfl
@[simp] theorem logOpt_qHead (e : Option Event) : (logOpt e s).qHead = s.qHead := by cases e <;> rfl
@[simp] theorem logOpt_qTail (e : Option Event) : (logOpt e s).qTail = s.qTail := by cases e <;> rfl
@[simp] theorem logOpt_qCount (e : Option Event) : (logOpt e s).qCount = s.qCount := by cases e <;> rfl

@[simp] theorem logOpt_outp (e : Option Event) : (logOpt e s).outp = s.outp ++ e.toList.map logRecord := by
  cases e <;> simp [logOpt]

end Sys2Proof.Machine
end

