-- ==== Sys2Proof/Laws/Ops.lean ====
section
/-! SUPPORT. What each shared operation can do, said once, and that the operations on the internal memories keep the
memories' sizes. -/

namespace Sys2Proof.Machine

/-! ## The live check -/

@[simp] theorem whenLive_of_live {s : State} {r : Result} (h : s.sysLive = true) : whenLive s r = r := by
  simp [whenLive, h]

@[simp] theorem whenLive_of_not_live {s : State} {r : Result} (h : s.sysLive = false) :
    whenLive s r = .refused .notLive := by
  simp [whenLive, h]

theorem whenLive_next {s t : State} {r : Result} : whenLive s r = .next t ↔ s.sysLive = true ∧ r = .next t := by
  cases h : s.sysLive <;> simp [whenLive, h]

theorem whenLive_fault {s : State} {r : Result} {f : Fault} :
    whenLive s r = .fault f ↔ s.sysLive = true ∧ r = .fault f := by
  cases h : s.sysLive <;> simp [whenLive, h]

/-! ## The internal memories -/

theorem valRow_isSome {s : State} {a : Byte} (h : s.ArraysWf) (h1 : 1 ≤ a.toNat) (h2 : a.toNat ≤ s.params.maxInv) :
    ∃ row, valRow s a = some row ∧ row.length = 9 := by
  obtain ⟨-, -, hv, hr, -⟩ := h
  have ha : a ≠ 0#8 := by rintro rfl; simp at h1
  have hlt : a.toNat - 1 < s.mtVal.length := by omega
  exact ⟨s.mtVal[a.toNat - 1], by simp [valRow, ha, hlt], hr _ (List.getElem_mem hlt)⟩

theorem rejRow_isSome {s : State} {a : Byte} (h : s.ArraysWf) (h1 : 1 ≤ a.toNat) (h2 : a.toNat ≤ s.params.maxInv) :
    ∃ row, rejRow s a = some row ∧ row.length = 9 := by
  obtain ⟨-, -, -, -, hv, hr, -⟩ := h
  have ha : a ≠ 0#8 := by rintro rfl; simp at h1
  have hlt : a.toNat - 1 < s.mtRej.length := by omega
  exact ⟨s.mtRej[a.toNat - 1], by simp [rejRow, ha, hlt], hr _ (List.getElem_mem hlt)⟩

theorem valAt_isSome {s : State} {a : Byte} {k : Nat} (h : s.ArraysWf) (h1 : 1 ≤ a.toNat)
    (h2 : a.toNat ≤ s.params.maxInv) (hk : k < 9) : ∃ v, valAt s a k = some v := by
  obtain ⟨row, hrow, hlen⟩ := valRow_isSome h h1 h2
  exact ⟨row[k], by simp [valAt, hrow, hlen, hk]⟩

theorem rejAt_isSome {s : State} {a : Byte} {k : Nat} (h : s.ArraysWf) (h1 : 1 ≤ a.toNat)
    (h2 : a.toNat ≤ s.params.maxInv) (hk : k < 9) : ∃ v, rejAt s a k = some v := by
  obtain ⟨row, hrow, hlen⟩ := rejRow_isSome h h1 h2
  exact ⟨row[k], by simp [rejAt, hrow, hlen, hk]⟩

/-- Reading an entry after `storeEntry` at the same place gives what was stored. -/
theorem valAt_storeEntry_same {s : State} {a : Byte} {k : Nat} {v : BitVec 64} {c : BitVec 2} (h : (valAt s a k).isSome) :
    valAt (storeEntry a k v c s) a k = some v := by
  unfold valAt valRow at *
  by_cases ha : a = 0#8
  · simp [ha] at h
  · simp only [ha, if_false, storeEntry_mtVal] at *
    cases hr : s.mtVal[a.toNat - 1]? with
    | none => simp [hr] at h
    | some row =>
      have hk : k < row.length := by
        by_contra hk
        simp [hr, List.getElem?_eq_none (Nat.le_of_not_lt hk)] at h
      simp [hr, hk]

theorem rejAt_storeEntry_same {s : State} {a : Byte} {k : Nat} {v : BitVec 64} {c : BitVec 2} (h : (rejAt s a k).isSome) :
    rejAt (storeEntry a k v c s) a k = some c := by
  unfold rejAt rejRow at *
  by_cases ha : a = 0#8
  · simp [ha] at h
  · simp only [ha, if_false, storeEntry_mtRej] at *
    cases hr : s.mtRej[a.toNat - 1]? with
    | none => simp [hr] at h
    | some row =>
      have hk : k < row.length := by
        by_contra hk
        simp [hr, List.getElem?_eq_none (Nat.le_of_not_lt hk)] at h
      simp [hr, hk]

theorem index_ne_of_ne {a b : Byte} (ha : a ≠ 0#8) (hb : b ≠ 0#8) (h : a ≠ b) : a.toNat - 1 ≠ b.toNat - 1 := by
  bv_omega

/-- `storeEntry` leaves every other value alone. -/
theorem valAt_storeEntry_ne {s : State} {a b : Byte} {j k : Nat} {v : BitVec 64} {c : BitVec 2} (ha : a ≠ 0#8)
    (h : ¬ (b = a ∧ j = k)) : valAt (storeEntry a k v c s) b j = valAt s b j := by
  unfold valAt valRow
  by_cases hb : b = 0#8
  · simp [hb]
  · simp only [hb, if_false, storeEntry_mtVal]
    by_cases hab : b = a
    · subst hab
      have hjk : k ≠ j := fun e => h ⟨rfl, e.symm⟩
      cases hr : s.mtVal[b.toNat - 1]? <;> simp [hr, hjk]
    · rw [List.getElem?_modify_ne]
      exact index_ne_of_ne ha hb (Ne.symm hab)

/-- `storeEntry` leaves every other counter alone. -/
theorem rejAt_storeEntry_ne {s : State} {a b : Byte} {j k : Nat} {v : BitVec 64} {c : BitVec 2} (ha : a ≠ 0#8)
    (h : ¬ (b = a ∧ j = k)) : rejAt (storeEntry a k v c s) b j = rejAt s b j := by
  unfold rejAt rejRow
  by_cases hb : b = 0#8
  · simp [hb]
  · simp only [hb, if_false, storeEntry_mtRej]
    by_cases hab : b = a
    · subst hab
      have hjk : k ≠ j := fun e => h ⟨rfl, e.symm⟩
      cases hr : s.mtRej[b.toNat - 1]? <;> simp [hr, hjk]
    · rw [List.getElem?_modify_ne]
      exact index_ne_of_ne ha hb (Ne.symm hab)

/-! ## The memory operations keep the sizes of R54 -/

theorem mem_modify_length {α : Type} {l : List (List α)} {i n k : Nat} {v : α} (h : ∀ row ∈ l, row.length = n) :
    ∀ row ∈ l.modify i (fun row => row.set k v), row.length = n := by
  intro row hrow
  rw [List.mem_iff_getElem?] at hrow
  obtain ⟨j, hj⟩ := hrow
  rw [List.getElem?_modify] at hj
  cases hl : l[j]? with
  | none => simp [hl] at hj
  | some r =>
    have := h r (List.mem_of_getElem? hl)
    simp only [hl, Option.map_eq_map, Option.map_some, Option.some.injEq] at hj
    split at hj <;> simp [← hj, this]

theorem storeByte_arraysWf {s : State} {p : Nat} {b : Byte} (h : s.ArraysWf) : (storeByte p b s).ArraysWf := by
  simpa [State.ArraysWf] using h

theorem storeEntry_arraysWf {s : State} {a : Byte} {k : Nat} {v : BitVec 64} {c : BitVec 2} (h : s.ArraysWf) :
    (storeEntry a k v c s).ArraysWf := by
  obtain ⟨h1, h2, h3, h4, h5, h6, h7⟩ := h
  exact ⟨h1, h2, by simpa using h3, mem_modify_length h4, by simpa using h5, mem_modify_length h6, h7⟩

theorem commitDiscovery_arraysWf {s : State} {l : List Byte} (h : s.ArraysWf) (hl : l.length ≤ s.params.maxInv) :
    (commitDiscovery l s).ArraysWf := by
  obtain ⟨h1, h2, h3⟩ := h
  exact ⟨h1, by simp [h2]; omega, h3⟩

theorem afterReset_arraysWf {invCount : Byte} {autoAef : Bool} {debug : BitVec 2} {s : State} :
    (afterReset invCount autoAef debug s).ArraysWf := by
  refine ⟨by simp [afterReset], by simp [afterReset], by simp [afterReset], ?_, by simp [afterReset], ?_,
    by simp [afterReset]⟩
  · intro row hrow
    rw [List.eq_of_mem_replicate hrow, List.length_replicate]
  · intro row hrow
    rw [List.eq_of_mem_replicate hrow, List.length_replicate]

/-! ## The Command Queue -/

theorem enqueue_full {k : QKind} {p1 p2 : Option Byte} {s : State} (h : s.qCount = s.params.qCap) :
    enqueue k p1 p2 s = { s with outp := s.outp ++ [logRecord (.queueFull k), .qresp .full] } := by
  simp [enqueue, h, emit, log]

theorem enqueue_room {k : QKind} {p1 p2 : Option Byte} {s : State} (h : s.qCount < s.params.qCap) :
    enqueue k p1 p2 s =
      { s with
        qEnt := s.qEnt.set s.qHead (QEntry.mk k p1 p2), qHead := (s.qHead + 1) % s.params.qCap,
        qCount := s.qCount + 1, outp := s.outp ++ [.qresp .ok] } := by
  simp [enqueue, Nat.ne_of_lt h, emit]

theorem enqueue_arraysWf {k : QKind} {p1 p2 : Option Byte} {s : State} (h : s.ArraysWf) :
    (enqueue k p1 p2 s).ArraysWf := by
  unfold enqueue
  split
  · simpa [State.ArraysWf] using h
  · simpa [State.ArraysWf] using h

theorem enqueue_queueWf {k : QKind} {p1 p2 : Option Byte} {s : State} (h : s.QueueWf) :
    (enqueue k p1 p2 s).QueueWf := by
  obtain ⟨h1, h2, h3, h4⟩ := h
  rcases Nat.lt_or_ge s.qCount s.params.qCap with hc | hc
  · rw [enqueue_room hc]
    refine ⟨hc, Nat.mod_lt _ (by omega), h3, ?_⟩
    show (s.qHead + 1) % s.params.qCap = (s.qTail + (s.qCount + 1)) % s.params.qCap
    rw [h4, Nat.mod_add_mod, Nat.add_assoc]
  · rw [enqueue_full (Nat.le_antisymm h1 hc)]
    exact ⟨h1, h2, h3, h4⟩

theorem dequeue_eq_some {e : QEntry} {s s' : State} :
    dequeue s = some (e, s') ↔
      s.qEnt[s.qTail]? = some e ∧
        s' = { s with qTail := (s.qTail + 1) % s.params.qCap, qCount := s.qCount - 1 } := by
  unfold dequeue
  cases s.qEnt[s.qTail]? with
  | none => simp
  | some x => simp [eq_comm]

theorem dequeue_queueWf {e : QEntry} {s s' : State} (h : s.QueueWf) (hc : 0 < s.qCount) (hd : dequeue s = some (e, s')) :
    s'.QueueWf := by
  obtain ⟨-, rfl⟩ := dequeue_eq_some.1 hd
  obtain ⟨h1, h2, h3, h4⟩ := h
  refine ⟨Nat.le_trans (Nat.sub_le _ _) h1, h2, Nat.mod_lt _ (by omega), ?_⟩
  show s.qHead = ((s.qTail + 1) % s.params.qCap + (s.qCount - 1)) % s.params.qCap
  rw [Nat.mod_add_mod, h4]
  congr 1
  omega

/-! ## The watchdog -/

/-- What the watchdog does: it may add NO_DATA and set its flag (R341). -/
theorem watchdog_eq (s : State) :
    watchdog s =
      { s with
        outp := s.outp ++ noDataRecords s, wdReported := s.wdReported || !(noDataRecords s).isEmpty } := by
  unfold watchdog noDataRecords elapsed
  split
  · simp [log, emit, logRecord, Event.sev, Event.code]
  · simp

/-! ## The ends of an exchange -/

/-- The state a sweep's end leaves (R271). -/
theorem sweepEnd_next {s t : State} :
    sweepEnd s = .next t ↔
      ∃ a values, activeAt s s.sqInvCursor = some a ∧ valRow s a = some values ∧ s.sqNActive ≠ 0 ∧
        t = { s with
              outp := s.outp ++ [.report a values], sqInvCursor := (s.sqInvCursor + 1) % s.sqNActive,
              sqIdleNext := .gai, sqSeqComplete := true } := by
  unfold sweepEnd valTarget
  cases ha : activeAt s s.sqInvCursor with
  | none => simp
  | some a =>
    cases hv : valRow s a with
    | none => simp [hv]
    | some values =>
      by_cases hn : s.sqNActive = 0
      · simp [hv, hn]
      · simp [hv, hn, emit, eq_comm]

/-- What the end of an exchange can do (R270 to R272): a sweep goes to its next slot or ends with its REPORT, an activation
is reported, and every other sequence is complete. -/
theorem stepDone_next {ok : Bool} {s t : State} (h : stepDone ok s = .next t) :
    (s.sqCur = .gval ∧ s.sqValIdx + 1 ≠ 9 ∧ t = { s with sqValIdx := s.sqValIdx + 1 }) ∨
      (s.sqCur = .gval ∧ s.sqValIdx + 1 = 9 ∧
        ∃ a values, activeAt s s.sqInvCursor = some a ∧ valRow s a = some values ∧ s.sqNActive ≠ 0 ∧
          t = { s with
                sqValIdx := 9, outp := s.outp ++ [.report a values],
                sqInvCursor := (s.sqInvCursor + 1) % s.sqNActive, sqIdleNext := .gai, sqSeqComplete := true }) ∨
      (s.sqCur = .aef ∧ t = aefDone ok s) ∨
      (s.sqCur = .gai ∧ t = { s with sqIdleNext := if ok then s.sqIdleNext else .gai, sqSeqComplete := true }) ∨
      ((s.sqCur = .gv ∨ s.sqCur = .gdt) ∧ t = completeSequence s) := by
  unfold stepDone at h
  cases hc : s.sqCur with
  | gv => simp_all
  | gdt => simp_all
  | gai => cases ok <;> simp_all [discoveryDone, completeSequence]
  | aef => simp_all
  | gval =>
    simp only [hc, sweepStep] at h
    by_cases h9 : s.sqValIdx + 1 = Config.pNSlots
    · rw [if_pos h9, sweepEnd_next] at h
      obtain ⟨a, values, h1, h2, h3, rfl⟩ := h
      refine Or.inr (Or.inl ⟨rfl, h9, a, values, h1, h2, h3, ?_⟩)
      simp only [h9]
      rfl
    · rw [if_neg h9] at h
      exact Or.inl ⟨rfl, h9, by simpa [eq_comm] using h⟩

/-- An exchange ends in a next state whenever the sweep it may belong to stands at a known inverter (R51 items 2 to 4). -/
theorem stepDone_completes {ok : Bool} {s : State}
    (h : s.sqCur = .gval → s.sqValIdx + 1 = 9 →
      s.sqNActive ≠ 0 ∧ ∃ a values, activeAt s s.sqInvCursor = some a ∧ valRow s a = some values) :
    ∃ t, stepDone ok s = .next t := by
  unfold stepDone
  cases hc : s.sqCur with
  | gv => exact ⟨_, rfl⟩
  | gdt => exact ⟨_, rfl⟩
  | gai => exact ⟨_, rfl⟩
  | aef => exact ⟨_, rfl⟩
  | gval =>
    simp only [sweepStep]
    by_cases h9 : s.sqValIdx + 1 = Config.pNSlots
    · obtain ⟨hn, a, values, h1, h2⟩ := h hc h9
      rw [if_pos h9]
      exact ⟨_, sweepEnd_next.2 ⟨a, values, h1, h2, hn, rfl⟩⟩
    · rw [if_neg h9]
      exact ⟨_, rfl⟩

/-! ## The dispatch of a frame -/

theorem dispatch_protocolError {dev num cmd : Byte} {pl : List Byte} {s : State} (h : cmd = s.params.cmdPerr) :
    dispatch dev num cmd pl s = protocolErrorReply dev num pl s := by
  simp [dispatch, h]

theorem dispatch_errorState {dev num cmd : Byte} {pl : List Byte} {s : State} (h0 : cmd ≠ s.params.cmdPerr)
    (h : cmd = s.params.cmdEstate) : dispatch dev num cmd pl s = errorStateReply dev num pl s := by
  rw [dispatch, if_neg h0, if_pos h]

theorem dispatch_unexpected {dev num cmd : Byte} {pl : List Byte} {s : State} (h0 : cmd ≠ s.params.cmdPerr)
    (h1 : cmd ≠ s.params.cmdEstate) (h2 : matchesRequest num cmd s = false) :
    dispatch dev num cmd pl s = .next (unexpected dev num cmd pl s) := by
  simp [dispatch, h0, h1, h2]

theorem dispatch_matched {dev num cmd : Byte} {pl : List Byte} {s : State} (h0 : cmd ≠ s.params.cmdPerr)
    (h1 : cmd ≠ s.params.cmdEstate) (h2 : matchesRequest num cmd s = true) :
    dispatch dev num cmd pl s = matchedReply num cmd pl s := by
  simp [dispatch, h0, h1, h2]

theorem matchesRequest_iff {num cmd : Byte} {s : State} : matchesRequest num cmd s = true ↔ Answers s num cmd := by
  simp [matchesRequest, Answers, and_assoc]

/-! ## The issue of a request -/

/-- The nine GetValues requests share one form (R233 to R241). -/
theorem exec_txGetval (k : Nat) (hk : k < 9) (n : Byte) (s : State) :
    exec (txGetvalInstr k n) s = requestValue k n s := by
  have : k = 0 ∨ k = 1 ∨ k = 2 ∨ k = 3 ∨ k = 4 ∨ k = 5 ∨ k = 6 ∨ k = 7 ∨ k = 8 := by omega
  rcases this with rfl | rfl | rfl | rfl | rfl | rfl | rfl | rfl | rfl <;> rfl

/-- The nine value replies share one form (R280 to R288). -/
theorem exec_rxVal (k : Nat) (hk : k < 9) (dev num : Byte) (pl : List Byte) (s : State) :
    exec (rxValInstr k dev num pl) s = receive dev num (s.params.cmdVal k) pl s := by
  have : k = 0 ∨ k = 1 ∨ k = 2 ∨ k = 3 ∨ k = 4 ∨ k = 5 ∨ k = 6 ∨ k = 7 ∨ k = 8 := by omega
  rcases this with rfl | rfl | rfl | rfl | rfl | rfl | rfl | rfl | rfl <;> rfl

theorem issueValue_eq (k : Nat) (n : Byte) (s : State) (hk : s.sqValIdx = k) (h9 : k < 9) :
    issueValue n s = requestValue k n s := by
  have : k = 0 ∨ k = 1 ∨ k = 2 ∨ k = 3 ∨ k = 4 ∨ k = 5 ∨ k = 6 ∨ k = 7 ∨ k = 8 := by omega
  rcases this with rfl | rfl | rfl | rfl | rfl | rfl | rfl | rfl | rfl <;> simp only [issueValue, hk] <;> rfl

/-- A request that is issued is committed: one TX record and the outstanding request, nothing else (R223, R224). -/
theorem issue_next {dom : BitVec 5} {s t : State} (h : issue dom s = .next t) :
    s.sysLive = true ∧ ∃ dev num cmd pl, t = commit dev num cmd pl s := by
  unfold issue at h
  cases hc : s.sqCur with
  | gv =>
    simp only [hc, execTxGetversion, whenLive_next] at h
    exact ⟨h.1, _, _, _, _, by simpa [eq_comm] using h.2⟩
  | gai =>
    simp only [hc, execTxGetactive, whenLive_next] at h
    exact ⟨h.1, _, _, _, _, by simpa [eq_comm] using h.2⟩
  | aef =>
    simp only [hc, execTxAef, whenLive_next] at h
    exact ⟨h.1, _, _, _, _, by simpa [eq_comm] using h.2⟩
  | gdt =>
    simp only [hc] at h
    cases hd : devTarget s with
    | none => simp [hd] at h
    | some n =>
      simp only [hd, execTxGetdevtype, whenLive_next] at h
      exact ⟨h.1, _, _, _, _, by simpa [eq_comm] using h.2⟩
  | gval =>
    simp only [hc] at h
    cases hd : valTarget s with
    | none => simp [hd] at h
    | some n =>
      simp only [hd] at h
      by_cases h9 : s.sqValIdx < 9
      · rw [issueValue_eq _ n s rfl h9, requestValue, whenLive_next] at h
        exact ⟨h.1, _, _, _, _, by simpa [eq_comm] using h.2⟩
      · unfold issueValue at h
        split at h <;> first | omega | simp at h

end Sys2Proof.Machine
end

