-- ==== Sys2Proof/Laws/Assembler.lean ====
section
/-! SUPPORT. The Frame Assembler position by position (spec/40_frame_assembler.md R140), and the arithmetic of the checksum
(spec/30_encoding.md R101). -/

namespace Sys2Proof.Machine

/-! ## The checksum -/

theorem foldl_add_byte (l : List Byte) (a : Byte) : l.foldl (· + ·) a = a + l.foldl (· + ·) 0#8 := by
  induction l generalizing a with
  | nil => simp
  | cons x xs ih =>
    rw [List.foldl_cons, List.foldl_cons, ih (a + x), ih (0#8 + x), BitVec.zero_add, BitVec.add_assoc]

@[simp] theorem checksum_nil : checksum [] = 0#8 := rfl

theorem checksum_cons (x : Byte) (l : List Byte) : checksum (x :: l) = x + checksum l := by
  rw [checksum, List.foldl_cons, foldl_add_byte, BitVec.zero_add]
  rfl

theorem checksum_append (l r : List Byte) : checksum (l ++ r) = checksum l + checksum r := by
  induction l with
  | nil => simp
  | cons x xs ih => rw [List.cons_append, checksum_cons, checksum_cons, ih, BitVec.add_assoc]

/-- The checksum is the sum of the bytes modulo 256 (R101). -/
theorem checksum_eq_sum (l : List Byte) : checksum l = BitVec.ofNat 8 (l.map BitVec.toNat).sum := by
  induction l with
  | nil => rfl
  | cons x xs ih =>
    rw [checksum_cons, ih, List.map_cons, List.sum_cons]
    apply BitVec.eq_of_toNat_eq
    simp [BitVec.toNat_add]

/-- The byte at the checksum's own position is not summed (R101, R146). -/
theorem bufChecksum_set_last (len : Nat) (buf : List Byte) (b : Byte) :
    bufChecksum len (buf.set (len + 7) b) = bufChecksum len buf := by
  unfold bufChecksum
  rw [List.drop_set, if_neg (by omega), List.take_set_of_le (by omega)]

theorem bufPayload_set_last (len : Nat) (buf : List Byte) (b : Byte) :
    bufPayload len (buf.set (len + 7) b) = bufPayload len buf := by
  unfold bufPayload
  rw [List.drop_set, if_neg (by omega), List.take_set_of_le (by omega)]

/-! ## The position tests of R140 -/

theorem ingest_sync {b : Byte} {s : State} (h : s.faPos < 3) : ingest b s = .next (syncByte b s.faPos s) := by
  rw [ingest, if_pos h]

theorem ingest_overflow {b : Byte} {s : State} (h : 3 ≤ s.faPos) (h' : s.params.bufSize ≤ s.faPos) :
    ingest b s = .next (overflowByte s.faPos s) := by
  rw [ingest, if_neg (by omega), if_pos h']

theorem ingest_length {b : Byte} {s : State} (h : s.faPos = 3) (h' : 3 < s.params.bufSize) :
    ingest b s = .next (lengthByte b s) := by
  rw [ingest, if_neg (by omega), if_neg (by omega), if_pos h]

theorem ingest_body {b len : Byte} {s : State} (h : 3 < s.faPos) (h' : s.faPos < s.params.bufSize)
    (hb : s.faBuf[3]? = some len) (hp : s.faPos < len.toNat + 7) :
    ingest b s = .next (emit (.frame .continued) (storeByte s.faPos b s)) := by
  rw [ingest, if_neg (by omega), if_neg (by omega), if_neg (by omega), bodyByte, hb]
  exact if_pos hp

theorem ingest_last {b len : Byte} {s : State} (h' : s.faPos < s.params.bufSize) (hb : s.faBuf[3]? = some len)
    (hp : s.faPos = len.toNat + 7) : ingest b s = lastByte len.toNat s.faPos b s := by
  rw [ingest, if_neg (by omega), if_neg (by omega), if_neg (by omega), bodyByte, hb]
  show (if s.faPos < len.toNat + 7 then _ else if s.faPos = len.toNat + 7 then _ else _) = _
  rw [if_neg (by omega), if_pos hp]

/-- The last byte with a wrong checksum (R147). -/
theorem lastByte_bad {b : Byte} {len : Nat} {s : State} (h : bufChecksum len s.faBuf ≠ b) :
    lastByte len (len + 7) b s =
      .next { s with
        faBuf := s.faBuf.set (len + 7) b, faPos := 0,
        outp := s.outp ++ [.frame (.discard .badCsum), logRecord (.csumErr (bufChecksum len s.faBuf) b)] } := by
  simp [lastByte, bufChecksum_set_last, h, checksumBad, raiseDiscard, log, emit]

/-- The last byte with the right checksum hands the frame over (R146). -/
theorem lastByte_good {b : Byte} {len : Nat} {s : State} (h : bufChecksum len s.faBuf = b) :
    lastByte len (len + 7) b s =
      dispatch (s.faBuf.getD 4 0#8) (s.faBuf.getD 5 0#8) (s.faBuf.getD 6 0#8) (bufPayload len s.faBuf)
        { s with
          faBuf := s.faBuf.set (len + 7) b, faPos := 0,
          outp := s.outp ++ [.frame (.complete ((s.faBuf.set (len + 7) b).take (len + 8)))] } := by
  have h4 : ∀ i < 7, (s.faBuf.set (len + 7) b).getD i 0#8 = s.faBuf.getD i 0#8 := by
    intro i hi
    rw [List.getD_eq_getElem?_getD, List.getD_eq_getElem?_getD, List.getElem?_set_ne (by omega)]
  simp only [lastByte, bufChecksum_set_last, bufPayload_set_last, h, if_true, h4 4 (by omega), h4 5 (by omega),
    h4 6 (by omega)]
  rfl

end Sys2Proof.Machine
end

