-- ==== Sys2Proof/Laws/Frames.lean ====
section
/-! SUPPORT. Frames and command codes: a built frame reads back (spec/30_encoding.md R100, R101), its bytes by offset, and the
distinctness of the command codes (R104) as the decoders and the dispatch use it. -/

namespace Sys2Proof

open Machine

/-! ## Built frames -/

@[simp] theorem frame_length (dev num cmd : Byte) (pl : List Byte) : (frame dev num cmd pl).length = pl.length + 8 := by
  simp [frame, frameBody]

theorem frame_eq_cons (dev num cmd : Byte) (pl : List Byte) :
    frame dev num cmd pl =
      Config.pSync :: Config.pSync :: Config.pSync :: BitVec.ofNat 8 pl.length :: dev :: num :: cmd ::
        (pl ++ [checksum (frameBody dev num cmd pl)]) := by
  simp [frame, frameBody]

/-- Reading a built frame gives its fields back (R100, R101, R107). -/
theorem parseFrame_frame {dev num cmd : Byte} {pl : List Byte} (h : pl.length ≤ 255) :
    parseFrame (frame dev num cmd pl) = .ok (FrameFields.mk dev num cmd pl) := by
  have hl : (BitVec.ofNat 8 pl.length).toNat = pl.length := by
    rw [BitVec.toNat_ofNat]
    exact Nat.mod_eq_of_lt (by omega)
  rw [frame_eq_cons]
  simp only [parseFrame, ne_eq, not_true_eq_false, or_self, if_false, hl, List.length_append, List.length_singleton,
    List.drop_left', List.take_left', frameBody]

/-- Bytes that read as a frame are the frame built from its fields (R100, R101). -/
theorem frame_of_parseFrame {bytes : List Byte} {f : FrameFields} (h : parseFrame bytes = .ok f) :
    bytes = frame f.dev f.num f.cmd f.pl ∧ f.pl.length ≤ 255 := by
  unfold parseFrame at h
  split at h
  · rename_i s0 s1 s2 len dev num cmd rest
    split at h
    · simp at h
    split at h
    · simp at h
    split at h
    · simp at h
    rename_i h1 h2 h3
    push Not at h1 h2 h3
    simp only [Except.ok.injEq] at h
    subst h
    obtain ⟨rfl, rfl, rfl⟩ := h1
    have hlen : (rest.take len.toNat).length = len.toNat := by
      rw [List.length_take]
      omega
    refine ⟨?_, by simp only [hlen]; have := len.isLt; omega⟩
    rw [frame_eq_cons]
    simp only [frameBody, hlen, BitVec.ofNat_toNat, BitVec.setWidth_eq]
    rw [← h3, List.take_append_drop]
  · simp at h

/-! ## The command codes are distinct -/

theorem Params.Wf.nodup {p : Params} (h : p.Wf) : p.codes.Nodup := h.2.2.2.2.2.2.2.1

/-- The nine GetValues codes in slot order. -/
theorem Params.codes_eq (p : Params) :
    p.codes =
      [p.cmdGv, p.cmdGdt, p.cmdGai] ++ ((List.range 9).map p.cmdVal ++ [p.cmdAef, p.cmdPerr, p.cmdEstate]) := rfl

theorem Params.cmdVal_mem {p : Params} {k : Nat} (hk : k < 9) : p.cmdVal k ∈ (List.range 9).map p.cmdVal :=
  List.mem_map_of_mem (by simpa using hk)

theorem Params.Wf.cmdVal_ne {p : Params} (h : p.Wf) {k : Nat} (hk : k < 9) :
    p.cmdVal k ≠ p.cmdGv ∧ p.cmdVal k ≠ p.cmdGdt ∧ p.cmdVal k ≠ p.cmdGai ∧ p.cmdVal k ≠ p.cmdAef ∧
      p.cmdVal k ≠ p.cmdPerr ∧ p.cmdVal k ≠ p.cmdEstate := by
  have hn := h.nodup
  rw [Params.codes_eq, List.nodup_append'] at hn
  obtain ⟨-, hn, hd⟩ := hn
  rw [List.nodup_append'] at hn
  have hm := Params.cmdVal_mem (p := p) hk
  have h1 : ∀ x ∈ [p.cmdGv, p.cmdGdt, p.cmdGai], p.cmdVal k ≠ x := by
    rintro x hx rfl
    exact hd hx (List.mem_append_left _ hm)
  have h2 : ∀ x ∈ [p.cmdAef, p.cmdPerr, p.cmdEstate], p.cmdVal k ≠ x := by
    rintro x hx rfl
    exact hn.2.2 hm hx
  exact ⟨h1 _ (by simp), h1 _ (by simp), h1 _ (by simp), h2 _ (by simp), h2 _ (by simp), h2 _ (by simp)⟩

theorem Params.Wf.others_nodup {p : Params} (h : p.Wf) :
    [p.cmdGv, p.cmdGdt, p.cmdGai, p.cmdAef, p.cmdPerr, p.cmdEstate].Nodup := by
  have hn := h.nodup
  rw [Params.codes_eq] at hn
  refine List.Nodup.sublist ?_ hn
  exact List.Sublist.append (l₁ := [p.cmdGv, p.cmdGdt, p.cmdGai]) (List.Sublist.refl _) (List.sublist_append_right _ _)

/-- No other code is an error response's (R104). -/
theorem Params.Wf.not_error {p : Params} (h : p.Wf) :
    (p.cmdGv ≠ p.cmdPerr ∧ p.cmdGv ≠ p.cmdEstate) ∧ (p.cmdGdt ≠ p.cmdPerr ∧ p.cmdGdt ≠ p.cmdEstate) ∧
      (p.cmdGai ≠ p.cmdPerr ∧ p.cmdGai ≠ p.cmdEstate) ∧ (p.cmdAef ≠ p.cmdPerr ∧ p.cmdAef ≠ p.cmdEstate) ∧
      p.cmdEstate ≠ p.cmdPerr := by
  have hn := h.others_nodup
  simp only [List.nodup_cons, List.mem_cons, List.not_mem_nil, or_false, not_or] at hn
  obtain ⟨⟨-, -, -, a1, a2⟩, ⟨-, -, b1, b2⟩, ⟨-, c1, c2⟩, ⟨d1, d2⟩, e, -⟩ := hn
  exact ⟨⟨a1, a2⟩, ⟨b1, b2⟩, ⟨c1, c2⟩, ⟨d1, d2⟩, fun h => e h.symm⟩

theorem valSlot_lt {p : Params} {c : Byte} {k : Nat} (h : valSlot p c = some k) : k < 9 ∧ c = p.cmdVal k := by
  refine ⟨?_, ?_⟩
  · simpa [Config.pNSlots] using List.mem_of_find?_eq_some h
  · simpa using List.find?_some h

/-- The code of a slot names that slot (R104). -/
theorem valSlot_cmdVal {p : Params} {k : Nat} (hk : k < 9) : valSlot p (p.cmdVal k) = some k := by
  cases h : valSlot p (p.cmdVal k) with
  | none =>
    have := List.find?_eq_none.1 h k (by simpa [Config.pNSlots] using hk)
    simp at this
  | some j =>
    obtain ⟨hj, he⟩ := valSlot_lt h
    have h1 : BitVec.ofNat 8 k = BitVec.ofNat 8 j := by simpa [Params.cmdVal] using he
    have h2 := congrArg BitVec.toNat h1
    rw [BitVec.toNat_ofNat, BitVec.toNat_ofNat, Nat.mod_eq_of_lt (by omega), Nat.mod_eq_of_lt (by omega)] at h2
    rw [h2]

theorem valSlot_none {p : Params} (c : Byte) (h : ∀ k < 9, c ≠ p.cmdVal k) : valSlot p c = none := by
  cases hv : valSlot p c with
  | none => rfl
  | some k => exact absurd (valSlot_lt hv).2 (h k (valSlot_lt hv).1)

end Sys2Proof
end

