-- ==== Sys2Proof/Laws/PerInstr.lean ====
section
/-! SUPPORT. Statements made for every instruction, one lemma per constructor. -/

namespace Sys2Proof.Laws.EncodeSurface

/-- An instruction's code stands on a surface of the right shape: a transaction word has a TAG that is not reserved
(spec/30_encoding.md R111), a request is a frame of 8 to 10 bytes (R102), and a well-formed inbound frame has at least 8
bytes, and at most what the Frame Assembler holds and validates (R100, R109). -/
def Statement (i : Instr) : Prop :=
  ∀ p : Params, wellFormed p i = true →
    match encode p i with
    | .word w => w.toNat % 16 ≤ 6
    | .outbound bytes => 8 ≤ bytes.length ∧ bytes.length ≤ 10
    | .inbound bytes => 8 ≤ bytes.length ∧ bytes.length ≤ p.maxInv + 8 ∧ bytes.length ≤ p.bufSize

/-- The TAG of a word built from fields is its lowest field. -/
theorem tag_append {n : Nat} (x : BitVec n) (t : BitVec 4) : (x ++ t).toNat % 16 = t.toNat := by
  rw [BitVec.toNat_append, Nat.shiftLeft_eq, Nat.mul_comm, ← Nat.two_pow_add_eq_or_of_lt t.isLt]
  have := t.isLt
  omega

theorem word_le {n : Nat} (x : BitVec n) (t : BitVec 4) (h : t.toNat ≤ 6) : (x ++ t).toNat % 16 ≤ 6 := by
  rwa [tag_append]

theorem frame_short (dev num cmd : Byte) (pl : List Byte) (h : pl.length ≤ 2) :
    8 ≤ (frame dev num cmd pl).length ∧ (frame dev num cmd pl).length ≤ 10 := by
  rw [frame_length]
  omega

theorem frame_bounds {p : Params} {pl : List Byte} (dev num cmd : Byte) (h : WellFormed.inboundPayload p pl = true) :
    8 ≤ (frame dev num cmd pl).length ∧ (frame dev num cmd pl).length ≤ p.maxInv + 8 ∧
      (frame dev num cmd pl).length ≤ p.bufSize := by
  simp only [WellFormed.inboundPayload, Bool.and_eq_true, decide_eq_true_eq] at h
  rw [frame_length]
  omega

theorem reset (invCount : Byte) (autoAef : Bool) (debug : BitVec 2) : Statement (.reset invCount autoAef debug) :=
  fun _ _ => word_le _ _ (by decide)

theorem rxByte (b : Byte) : Statement (.rxByte b) :=
  fun _ _ => word_le _ _ (by decide)

theorem rxIdle : Statement (.rxIdle) :=
  fun _ _ => word_le _ _ (by decide)

theorem tick (dom : BitVec 5) : Statement (.tick dom) :=
  fun _ _ => word_le _ _ (by decide)

theorem enqGv : Statement (.enqGv) :=
  fun _ _ => word_le _ _ (by decide)

theorem enqGdt : Statement (.enqGdt) :=
  fun _ _ => word_le _ _ (by decide)

theorem enqGai : Statement (.enqGai) :=
  fun _ _ => word_le _ _ (by decide)

theorem enqAef (p1 p2 : Option Byte) : Statement (.enqAef p1 p2) :=
  fun _ _ => word_le _ _ (by decide)

theorem setDebug (level : BitVec 2) : Statement (.setDebug level) :=
  fun _ _ => word_le _ _ (by decide)

theorem lineOpen : Statement (.lineOpen) :=
  fun _ _ => word_le _ _ (by decide)

theorem txGetversion : Statement (.txGetversion) :=
  fun _ _ => frame_short _ _ _ _ (by simp)

theorem txGetdevtype (n : Byte) : Statement (.txGetdevtype n) :=
  fun _ _ => frame_short _ _ _ _ (by simp)

theorem txGetactive : Statement (.txGetactive) :=
  fun _ _ => frame_short _ _ _ _ (by simp)

theorem txGetval0 (n : Byte) : Statement (.txGetval0 n) :=
  fun _ _ => frame_short _ _ _ _ (by simp)

theorem txGetval1 (n : Byte) : Statement (.txGetval1 n) :=
  fun _ _ => frame_short _ _ _ _ (by simp)

theorem txGetval2 (n : Byte) : Statement (.txGetval2 n) :=
  fun _ _ => frame_short _ _ _ _ (by simp)

theorem txGetval3 (n : Byte) : Statement (.txGetval3 n) :=
  fun _ _ => frame_short _ _ _ _ (by simp)

theorem txGetval4 (n : Byte) : Statement (.txGetval4 n) :=
  fun _ _ => frame_short _ _ _ _ (by simp)

theorem txGetval5 (n : Byte) : Statement (.txGetval5 n) :=
  fun _ _ => frame_short _ _ _ _ (by simp)

theorem txGetval6 (n : Byte) : Statement (.txGetval6 n) :=
  fun _ _ => frame_short _ _ _ _ (by simp)

theorem txGetval7 (n : Byte) : Statement (.txGetval7 n) :=
  fun _ _ => frame_short _ _ _ _ (by simp)

theorem txGetval8 (n : Byte) : Statement (.txGetval8 n) :=
  fun _ _ => frame_short _ _ _ _ (by simp)

theorem txAef (p1 p2 : Byte) : Statement (.txAef p1 p2) :=
  fun _ _ => frame_short _ _ _ _ (by simp)

theorem rxVersion (dev num : Byte) (pl : List Byte) : Statement (.rxVersion dev num pl) :=
  fun _ h => frame_bounds _ _ _ h

theorem rxDevtype (dev num : Byte) (pl : List Byte) : Statement (.rxDevtype dev num pl) :=
  fun _ h => frame_bounds _ _ _ h

theorem rxActive (dev num : Byte) (pl : List Byte) : Statement (.rxActive dev num pl) :=
  fun _ h => frame_bounds _ _ _ h

theorem rxVal0 (dev num : Byte) (pl : List Byte) : Statement (.rxVal0 dev num pl) :=
  fun _ h => frame_bounds _ _ _ h

theorem rxVal1 (dev num : Byte) (pl : List Byte) : Statement (.rxVal1 dev num pl) :=
  fun _ h => frame_bounds _ _ _ h

theorem rxVal2 (dev num : Byte) (pl : List Byte) : Statement (.rxVal2 dev num pl) :=
  fun _ h => frame_bounds _ _ _ h

theorem rxVal3 (dev num : Byte) (pl : List Byte) : Statement (.rxVal3 dev num pl) :=
  fun _ h => frame_bounds _ _ _ h

theorem rxVal4 (dev num : Byte) (pl : List Byte) : Statement (.rxVal4 dev num pl) :=
  fun _ h => frame_bounds _ _ _ h

theorem rxVal5 (dev num : Byte) (pl : List Byte) : Statement (.rxVal5 dev num pl) :=
  fun _ h => frame_bounds _ _ _ h

theorem rxVal6 (dev num : Byte) (pl : List Byte) : Statement (.rxVal6 dev num pl) :=
  fun _ h => frame_bounds _ _ _ h

theorem rxVal7 (dev num : Byte) (pl : List Byte) : Statement (.rxVal7 dev num pl) :=
  fun _ h => frame_bounds _ _ _ h

theorem rxVal8 (dev num : Byte) (pl : List Byte) : Statement (.rxVal8 dev num pl) :=
  fun _ h => frame_bounds _ _ _ h

theorem rxAef (dev num : Byte) (pl : List Byte) : Statement (.rxAef dev num pl) :=
  fun _ h => frame_bounds _ _ _ h

theorem rxProtocolError (dev num : Byte) (pl : List Byte) : Statement (.rxProtocolError dev num pl) :=
  fun _ h => frame_bounds _ _ _ h

theorem rxErrorState (dev num : Byte) (pl : List Byte) : Statement (.rxErrorState dev num pl) :=
  fun _ h => frame_bounds _ _ _ h

end Sys2Proof.Laws.EncodeSurface
end

