-- ==== Sys2Proof/Laws/Sequencer.lean ====
section
/-! SUPPORT. The Command Sequencer: what the end of an exchange and the dispatch of a frame leave alone and emit, and that
they complete in every state that meets the invariant. -/

namespace Sys2Proof.Machine

/-- `t` agrees with `s` on everything but the sequencer, the measurement table and the output records. -/
structure SameOutside (s t : State) : Prop where
  params : t.params = s.params
  inq : t.inq = s.inq
  now : t.now = s.now
  sysLive : t.sysLive = s.sysLive
  cfgInvCount : t.cfgInvCount = s.cfgInvCount
  cfgAutoAef : t.cfgAutoAef = s.cfgAutoAef
  cfgDebug : t.cfgDebug = s.cfgDebug
  faPos : t.faPos = s.faPos
  faBuf : t.faBuf = s.faBuf
  faSyncErrs : t.faSyncErrs = s.faSyncErrs
  wdLastRx : t.wdLastRx = s.wdLastRx
  wdReported : t.wdReported = s.wdReported
  qEnt : t.qEnt = s.qEnt
  qHead : t.qHead = s.qHead
  qTail : t.qTail = s.qTail
  qCount : t.qCount = s.qCount

/-- Records that only report: no FRAME and no TX among them. -/
def Reports (recs : List Record) : Prop := ∀ r ∈ recs, r.isFrame = false ∧ r.isTx = false

@[simp] theorem Reports.nil : Reports [] := fun _ h => absurd h (List.not_mem_nil)

theorem Reports.cons {r : Record} {recs : List Record} (h : r.isFrame = false ∧ r.isTx = false) (h' : Reports recs) :
    Reports (r :: recs) := by
  rintro x (_ | ⟨_, hx⟩)
  · exact h
  · exact h' x hx

theorem Reports.append {l r : List Record} (h : Reports l) (h' : Reports r) : Reports (l ++ r) := by
  intro x hx
  exact (List.mem_append.1 hx).elim (h x) (h' x)

@[simp] theorem isFrame_logRecord (e : Event) : (logRecord e).isFrame = false := rfl

@[simp] theorem isTx_logRecord (e : Event) : (logRecord e).isTx = false := rfl

theorem Reports.log (e : Event) : Reports [logRecord e] := Reports.cons ⟨rfl, rfl⟩ Reports.nil

/-- `t` comes from `s` by sequencer work: nothing outside it changes, and the new records only report. -/
def SequencerWork (s t : State) : Prop := SameOutside s t ∧ ∃ recs, t.outp = s.outp ++ recs ∧ Reports recs

theorem SequencerWork.refl (s : State) : SequencerWork s s :=
  ⟨⟨rfl, rfl, rfl, rfl, rfl, rfl, rfl, rfl, rfl, rfl, rfl, rfl, rfl, rfl, rfl, rfl⟩, [], by simp, Reports.nil⟩

theorem SequencerWork.trans {s t u : State} (h : SequencerWork s t) (h' : SequencerWork t u) : SequencerWork s u := by
  obtain ⟨a, r1, e1, p1⟩ := h
  obtain ⟨b, r2, e2, p2⟩ := h'
  refine ⟨?_, r1 ++ r2, by rw [e2, e1, List.append_assoc], p1.append p2⟩
  exact ⟨b.params.trans a.params, b.inq.trans a.inq, b.now.trans a.now, b.sysLive.trans a.sysLive,
    b.cfgInvCount.trans a.cfgInvCount, b.cfgAutoAef.trans a.cfgAutoAef, b.cfgDebug.trans a.cfgDebug,
    b.faPos.trans a.faPos, b.faBuf.trans a.faBuf, b.faSyncErrs.trans a.faSyncErrs, b.wdLastRx.trans a.wdLastRx,
    b.wdReported.trans a.wdReported, b.qEnt.trans a.qEnt, b.qHead.trans a.qHead, b.qTail.trans a.qTail,
    b.qCount.trans a.qCount⟩

theorem SequencerWork.log (e : Event) (s : State) : SequencerWork s (log e s) :=
  ⟨⟨rfl, rfl, rfl, rfl, rfl, rfl, rfl, rfl, rfl, rfl, rfl, rfl, rfl, rfl, rfl, rfl⟩, [logRecord e], rfl, Reports.log e⟩

theorem SequencerWork.logOpt (e : Option Event) (s : State) : SequencerWork s (logOpt e s) := by
  cases e with
  | none => exact SequencerWork.refl s
  | some e => exact SequencerWork.log e s

theorem SequencerWork.clearAwaiting (s : State) : SequencerWork s (clearAwaiting s) :=
  ⟨⟨rfl, rfl, rfl, rfl, rfl, rfl, rfl, rfl, rfl, rfl, rfl, rfl, rfl, rfl, rfl, rfl⟩, [], by simp, Reports.nil⟩

theorem SequencerWork.commitDiscovery (l : List Byte) (s : State) : SequencerWork s (commitDiscovery l s) :=
  ⟨⟨rfl, rfl, rfl, rfl, rfl, rfl, rfl, rfl, rfl, rfl, rfl, rfl, rfl, rfl, rfl, rfl⟩, [], by simp, Reports.nil⟩

theorem SequencerWork.storeEntry (a : Byte) (k : Nat) (v : BitVec 64) (c : BitVec 2) (s : State) :
    SequencerWork s (storeEntry a k v c s) :=
  ⟨⟨rfl, rfl, rfl, rfl, rfl, rfl, rfl, rfl, rfl, rfl, rfl, rfl, rfl, rfl, rfl, rfl⟩, [], by simp, Reports.nil⟩

theorem SequencerWork.warnZero (pl : List Byte) (s : State) : SequencerWork s (warnZero pl s) := by
  unfold Machine.warnZero
  split
  · exact ⟨⟨rfl, rfl, rfl, rfl, rfl, rfl, rfl, rfl, rfl, rfl, rfl, rfl, rfl, rfl, rfl, rfl⟩, [logRecord .zeroAddr], rfl,
      Reports.log _⟩
  · exact SequencerWork.refl s

/-- The end of an exchange is sequencer work (R270 to R272). -/
theorem stepDone_work {ok : Bool} {s t : State} (h : stepDone ok s = .next t) : SequencerWork s t := by
  rcases stepDone_next h with ⟨-, -, rfl⟩ | ⟨-, -, a, values, -, -, -, rfl⟩ | ⟨-, rfl⟩ | ⟨-, rfl⟩ | ⟨-, rfl⟩
  · exact ⟨⟨rfl, rfl, rfl, rfl, rfl, rfl, rfl, rfl, rfl, rfl, rfl, rfl, rfl, rfl, rfl, rfl⟩, [], by simp, Reports.nil⟩
  · exact ⟨⟨rfl, rfl, rfl, rfl, rfl, rfl, rfl, rfl, rfl, rfl, rfl, rfl, rfl, rfl, rfl, rfl⟩, [.report a values], rfl,
      Reports.cons ⟨rfl, rfl⟩ Reports.nil⟩
  · exact ⟨⟨rfl, rfl, rfl, rfl, rfl, rfl, rfl, rfl, rfl, rfl, rfl, rfl, rfl, rfl, rfl, rfl⟩, [logRecord _], rfl,
      Reports.log _⟩
  · exact ⟨⟨rfl, rfl, rfl, rfl, rfl, rfl, rfl, rfl, rfl, rfl, rfl, rfl, rfl, rfl, rfl, rfl⟩, [], by simp, Reports.nil⟩
  · exact ⟨⟨rfl, rfl, rfl, rfl, rfl, rfl, rfl, rfl, rfl, rfl, rfl, rfl, rfl, rfl, rfl, rfl⟩, [], by simp, Reports.nil⟩

theorem malformed_work {cmd : Byte} {pl : List Byte} {s t : State} (h : malformed cmd pl s = .next t) :
    SequencerWork s t :=
  (SequencerWork.log _ s).trans (stepDone_work h)

theorem timeout_work {s t : State} (h : timeout s = .next t) : SequencerWork s t :=
  ((SequencerWork.log _ s).trans (SequencerWork.clearAwaiting _)).trans (stepDone_work h)

theorem errorResponse_work {num : Byte} {s t : State} (h : errorResponse num s = .next t) : SequencerWork s t := by
  unfold errorResponse at h
  split at h
  · exact (SequencerWork.clearAwaiting s).trans (stepDone_work h)
  · cases h
    exact SequencerWork.refl s

theorem storeValue_work {k : Nat} {num hi lo eb : Byte} {s t : State} (h : storeValue k num hi lo eb s = .next t) :
    SequencerWork s t := by
  unfold storeValue at h
  split at h
  · exact (((SequencerWork.logOpt _ s).trans (SequencerWork.logOpt _ _)).trans (SequencerWork.storeEntry _ _ _ _ _)).trans
      (stepDone_work h)
  · cases h

theorem matchedReply_work {num cmd : Byte} {pl : List Byte} {s t : State} (h : matchedReply num cmd pl s = .next t) :
    SequencerWork s t := by
  unfold matchedReply at h
  cases hc : s.sqCur <;> simp only [hc] at h
  · unfold versionReply at h
    split at h
    · exact ((SequencerWork.clearAwaiting s).trans (SequencerWork.log _ _)).trans (stepDone_work h)
    · exact (SequencerWork.clearAwaiting s).trans (malformed_work h)
  · unfold devtypeReply at h
    split at h
    · exact ((SequencerWork.clearAwaiting s).trans (SequencerWork.log _ _)).trans (stepDone_work h)
    · exact (SequencerWork.clearAwaiting s).trans (malformed_work h)
  · unfold activeReply at h
    split at h
    · cases h
      exact SequencerWork.log _ s
    · refine ((SequencerWork.clearAwaiting s).trans (SequencerWork.warnZero pl _)).trans ?_
      unfold discoveryOutcome at h
      split at h
      · exact (SequencerWork.log _ _).trans (stepDone_work h)
      · exact (SequencerWork.commitDiscovery _ _).trans (stepDone_work h)
  · split at h
    · unfold valueReply at h
      split at h
      · exact (SequencerWork.clearAwaiting s).trans (storeValue_work h)
      · exact (SequencerWork.clearAwaiting s).trans (malformed_work h)
    · cases h
  · exact (SequencerWork.clearAwaiting s).trans (stepDone_work h)

/-- The dispatch of a frame is sequencer work (R250). -/
theorem dispatch_work {dev num cmd : Byte} {pl : List Byte} {s t : State} (h : dispatch dev num cmd pl s = .next t) :
    SequencerWork s t := by
  unfold dispatch at h
  split at h
  · exact (SequencerWork.log _ s).trans (errorResponse_work h)
  split at h
  · exact (SequencerWork.log _ s).trans (errorResponse_work h)
  split at h
  · exact matchedReply_work h
  · cases h
    exact SequencerWork.log _ s

/-! ## Under the invariant -/

/-- The cursor stands at a known inverter whenever one is known (R51 items 3 and 4). -/
theorem State.Inv.valTarget {s : State} (h : s.Inv) (hl : s.sysLive = true) (hn : 0 < s.sqNActive) :
    Machine.valTarget s = some (s.sqActive.getD s.sqInvCursor 0#8) ∧ 1 ≤ (s.sqActive.getD s.sqInvCursor 0#8).toNat ∧
      (s.sqActive.getD s.sqInvCursor 0#8).toNat ≤ s.params.maxInv ∧ s.sqInvCursor < s.sqNActive := by
  obtain ⟨ha, hc, -, hd, -⟩ := h.2 hl
  have hcur := hd.2.1 hn
  have hr := hd.2.2.2 _ hcur
  have hlt : s.sqInvCursor < s.sqActive.length := by
    rw [ha.2.1]
    have := hd.1
    omega
  refine ⟨?_, hr.1, Nat.le_trans hr.2 hc.2.1, hcur⟩
  simp [Machine.valTarget, activeAt, hlt]

theorem State.Inv.devTarget {s : State} (h : s.Inv) (hl : s.sysLive = true) :
    Machine.devTarget s = some (if 0 < s.sqNActive then s.sqActive.getD s.sqInvCursor 0#8 else 1#8) := by
  unfold Machine.devTarget
  split
  · exact (h.valTarget hl ‹_›).1
  · rfl

/-- An exchange of a sequence in progress ends in a next state, in a state `u` that has the sequencer's position, the list
and the table of one that meets the invariant. -/
theorem State.Inv.stepDone {s : State} (h : s.Inv) (hl : s.sysLive = true) (hs : s.sqSeqComplete = false) {ok : Bool}
    (u : State) (e1 : u.sqCur = s.sqCur) (e2 : u.sqNActive = s.sqNActive) (e3 : u.sqActive = s.sqActive)
    (e4 : u.sqInvCursor = s.sqInvCursor) (e5 : ∀ a, (valRow s a).isSome → (valRow u a).isSome) :
    ∃ t, Machine.stepDone ok u = .next t := by
  refine stepDone_completes fun hc _ => ?_
  obtain ⟨ha, -, -, -, hq, -⟩ := h.2 hl
  rw [e1] at hc
  have hn := (hq.2.2.2.1 hc hs).2
  obtain ⟨ht, h1, h2, -⟩ := h.valTarget hl hn
  obtain ⟨row, hrow, -⟩ := valRow_isSome ha h1 h2
  obtain ⟨row', hrow'⟩ := Option.isSome_iff_exists.1 (e5 _ (by rw [hrow]; rfl))
  exact ⟨by omega, _, row', by rw [activeAt, e3, e4]; exact ht, hrow'⟩

theorem valRow_storeEntry_isSome {s : State} {a b : Byte} {k : Nat} {v : BitVec 64} {c : BitVec 2}
    (h : (valRow s b).isSome) : (valRow (storeEntry a k v c s) b).isSome := by
  unfold valRow at *
  by_cases hb : b = 0#8
  · simp [hb] at h
  · simp only [hb, if_false, storeEntry_mtVal] at *
    rw [List.getElem?_modify]
    simpa using h

/-- Every frame of legal length is handled in every state that meets the invariant (R335). -/
theorem State.Inv.dispatch {s : State} (h : s.Inv) (hl : s.sysLive = true) (dev num cmd : Byte) (pl : List Byte) (u : State)
    (hu : { u with faPos := 0, faBuf := [], wdLastRx := 0#32, wdReported := false, outp := [] } =
      { s with faPos := 0, faBuf := [], wdLastRx := 0#32, wdReported := false, outp := [] }) :
    ∃ t, Machine.dispatch dev num cmd pl u = .next t := by
  obtain ⟨ha, -, -, hd, hq, -⟩ := h.2 hl
  simp only [State.mk.injEq] at hu
  have e1 : u.sqCur = s.sqCur := by tauto
  have e2 : u.sqNActive = s.sqNActive := by tauto
  have e3 : u.sqActive = s.sqActive := by tauto
  have e4 : u.sqInvCursor = s.sqInvCursor := by tauto
  have e5 : u.mtVal = s.mtVal := by tauto
  have e6 : u.mtRej = s.mtRej := by tauto
  have e7 : u.sqAwaiting = s.sqAwaiting := by tauto
  have e8 : u.sqOutNum = s.sqOutNum := by tauto
  have e9 : u.sqValIdx = s.sqValIdx := by tauto
  have done : ∀ ok v, s.sqAwaiting = true → v.sqCur = s.sqCur → v.sqNActive = s.sqNActive → v.sqActive = s.sqActive →
      v.sqInvCursor = s.sqInvCursor → v.mtVal = s.mtVal → ∃ t, Machine.stepDone ok v = .next t := by
    intro ok v hw v1 v2 v3 v4 v5
    exact h.stepDone hl (hq.2.2.1 hw) v v1 v2 v3 v4 (fun a => by simp only [valRow, v5]; exact id)
  have err : ∀ e, ∃ t, errorResponse num (log e u) = .next t := by
    intro e
    unfold errorResponse
    split
    · rename_i hans
      have hw : u.sqAwaiting = true := by
        simp only [answersRequest, Bool.and_eq_true] at hans
        exact hans.1
      exact done _ _ (e7 ▸ hw) e1 e2 e3 e4 e5
    · exact ⟨_, rfl⟩
  unfold Machine.dispatch
  split
  · exact err _
  split
  · exact err _
  split
  · rename_i hm
    rw [matchesRequest_iff] at hm
    obtain ⟨hw, -, hnum⟩ := hm
    rw [e7] at hw
    unfold matchedReply
    cases hc : u.sqCur <;> simp only
    · unfold versionReply
      cases pl <;> exact done _ _ hw e1 e2 e3 e4 e5
    · unfold devtypeReply
      cases pl <;> exact done _ _ hw e1 e2 e3 e4 e5
    · unfold activeReply
      split
      · exact ⟨_, rfl⟩
      · unfold discoveryOutcome
        have hg : ∀ ok v, v.sqCur = CmdKind.gai → ∃ t, Machine.stepDone ok v = .next t := by
          intro ok v hv
          unfold Machine.stepDone
          rw [hv]
          exact ⟨_, rfl⟩
        have hz : (warnZero pl (clearAwaiting u)).sqCur = CmdKind.gai := by
          unfold warnZero
          split <;> exact hc
        split
        · exact hg _ _ hz
        · exact hg _ _ hz
    · rw [e1] at hc
      have hpos := hq.2.2.2.1 hc (hq.2.2.1 hw)
      rw [if_pos (by rw [e9]; exact hpos.1)]
      unfold valueReply
      split
      · obtain ⟨ht, h1, h2, -⟩ := h.valTarget hl hpos.2
        have hn : s.sqActive.getD s.sqInvCursor 0#8 = num := by
          have := hq.2.2.2.2.2 hw hc
          rw [ht] at this
          rw [hnum, e8]
          exact Option.some.inj this
        rw [hn] at h1 h2
        have ev : ∀ j, valAt (clearAwaiting u) num j = valAt s num j := by
          intro j
          simp [valAt, valRow, e5]
        have er : ∀ j, rejAt (clearAwaiting u) num j = rejAt s num j := by
          intro j
          simp [rejAt, rejRow, e6]
        obtain ⟨x1, hx1⟩ := valAt_isSome ha h1 h2 hpos.1
        obtain ⟨x2, hx2⟩ := rejAt_isSome ha h1 h2 hpos.1
        obtain ⟨x3, hx3⟩ := valAt_isSome ha h1 h2 (show 8 < 9 by omega)
        unfold storeValue
        rw [ev, er, ev, e9, hx1, hx2, hx3]
        refine h.stepDone hl (hq.2.2.1 hw) _ ?_ ?_ ?_ ?_ ?_
        · simp [logOpt_sqCur, e1]
        · simp [logOpt_sqNActive, e2]
        · simp [logOpt_sqActive, e3]
        · simp [logOpt_sqInvCursor, e4]
        · intro a hsome
          apply valRow_storeEntry_isSome
          simpa [valRow, logOpt_mtVal, e5] using hsome
      · exact done _ _ hw e1 e2 e3 e4 e5
    · exact done _ _ hw e1 e2 e3 e4 e5
  · exact ⟨_, rfl⟩

end Sys2Proof.Machine
end

