-- ==== Sys2Proof/Machine/HostText.lean ====
section
/-! DEFINITION. The host-side text that stands for transactions (spec/30_encoding.md R116, R117), as syntax trees after the host's
tokenising: a trace line and a control-channel command, with the transactions each expands to. No step uses this file. -/

namespace Sys2Proof.Machine

/-- The operation of one trace line (R116). -/
inductive TraceOp where
  /-- `RESET inv=<invCount> aef=<0|1> dbg=<0..2>`. -/
  | reset (inv : Byte) (aef : Bool) (dbg : BitVec 2)
  /-- `RX <hex bytes>`: one RX_BYTE per byte. -/
  | rx (bytes : List Byte)
  /-- `IDLE`. -/
  | idle
  /-- `LINEOPEN`. -/
  | lineOpen
  /-- `TICK dom=<1..31>`. -/
  | tick (dom : BitVec 5)
  /-- `ENQ GV`. -/
  | enqGv
  /-- `ENQ GDT`. -/
  | enqGdt
  /-- `ENQ GAI`. -/
  | enqGai
  /-- `ENQ AEF [<p1>] [<p2>]`. -/
  | enqAef (p1 p2 : Option Byte)
  /-- `DEBUG <0..2>`. -/
  | debug (level : BitVec 2)
  deriving DecidableEq, Repr

/-- The transactions of a trace operation, in order (R116). -/
def TraceOp.expand : TraceOp → List Instr
  | .reset inv aef dbg => [.reset inv aef dbg]
  | .rx bytes => bytes.map .rxByte
  | .idle => [.rxIdle]
  | .lineOpen => [.lineOpen]
  | .tick dom => [.tick dom]
  | .enqGv => [.enqGv]
  | .enqGdt => [.enqGdt]
  | .enqGai => [.enqGai]
  | .enqAef p1 p2 => [.enqAef p1 p2]
  | .debug level => [.setDebug level]

/-- One line `@<now> OP ...` as input transactions, all with the same `now` (R116). -/
def traceLine (now : Word32) (op : TraceOp) : List Txn := op.expand.map fun i => Txn.mk now (txnWord i)

/-- A control-channel command (R117). -/
inductive ControlCommand where
  /-- `GetSWVersion`. -/
  | getSWVersion
  /-- `GetDevType`. -/
  | getDevType
  /-- `GetActiveInverters`. -/
  | getActiveInverters
  /-- `ActivateError [<p1>] [<p2>]`, the numbers as the host read them (p1 decimal, p2 hexadecimal). -/
  | activateError (params : List Nat)
  /-- `debug <level>`. -/
  | debug (level : Nat)
  /-- `exit`, `Ok`, `truncate`, `help`: host-side. -/
  | hostSide
  /-- Anything else. -/
  | unknown
  deriving DecidableEq, Repr

/-- A number of 0 to 255 as a parameter byte (R117). -/
def paramByte (n : Nat) : Option Byte := if n ≤ 255 then some (BitVec.ofNat 8 n) else none

/-- The transaction of a control command, or none (R117). -/
def ControlCommand.expand : ControlCommand → Option Instr
  | .getSWVersion => some .enqGv
  | .getDevType => some .enqGdt
  | .getActiveInverters => some .enqGai
  | .activateError [] => some (.enqAef none none)
  | .activateError [a] => (paramByte a).map fun p1 => .enqAef (some p1) none
  | .activateError [a, b] =>
    match paramByte a, paramByte b with
    | some p1, some p2 => some (.enqAef (some p1) (some p2))
    | _, _ => none
  | .activateError _ => none
  | .debug level => if level ≤ 2 then some (.setDebug (BitVec.ofNat 2 level)) else none
  | .hostSide => none
  | .unknown => none

end Sys2Proof.Machine
end

