-- ==== Sys2Proof/Tests/Slice0.lean ====
section
/-! SUPPORT. Tests: ill-formed terms that WellFormed refuses, words and frames written out from the spec's encodings, single
steps against the vectors of spec/95_test_vectors.md, and a witness for the hypotheses of every obligation. -/

namespace Sys2Proof.Tests

open Machine

/-! ## WellFormed refuses an ill-formed term at each check (R113, R109, R144) -/

theorem smoke_reset_zero : wellFormed Config.testBinding (.reset 0#8 false 0#2) = false := by decide

theorem smoke_reset_above_max : wellFormed Config.testBinding (.reset 9#8 false 0#2) = false := by decide

theorem smoke_reset_debug : wellFormed Config.testBinding (.reset 1#8 false 3#2) = false := by decide

theorem smoke_tick_zero : wellFormed Config.testBinding (.tick 0#5) = false := by decide

theorem smoke_enq_p2_alone : wellFormed Config.testBinding (.enqAef none (some 1#8)) = false := by decide

theorem smoke_setDebug : wellFormed Config.testBinding (.setDebug 3#2) = false := by decide

theorem smoke_payload_above_max :
    wellFormed Config.testBinding (.rxActive 0#8 0#8 (List.replicate 9 1#8)) = false := by decide

theorem smoke_payload_above_buffer :
    wellFormed { Config.testBinding with bufSize := 10 } (.rxAef 0#8 0#8 [1#8, 2#8, 3#8]) = false := by decide

theorem smoke_well_formed :
    wellFormed Config.testBinding (.reset 8#8 true 2#2) = true ∧ wellFormed Config.testBinding (.tick 31#5) = true ∧
      wellFormed Config.testBinding (.rxActive 0#8 0#8 (List.replicate 8 1#8)) = true := by decide

/-! ## Transaction words, field by field from R112 (examples of R114 and L2.8) -/

/-- debug 01, autoAef 0, invCount 00000011, TAG 0000. -/
theorem decode_reset :
    decodeTxn (0b00000000000000000#17 ++ 0b01#2 ++ 0b0#1 ++ 0b00000011#8 ++ 0b0000#4) = .ok (.reset 3#8 false 1#2) ∧
      decodeTxn 0x00001010#32 = .ok (.reset 1#8 true 0#2) ∧ decodeTxn 0x00004080#32 = .ok (.reset 8#8 false 2#2) := by
  decide

/-- b 10000000, TAG 0001. -/
theorem decode_rxByte :
    decodeTxn (0b00000000000000000000#20 ++ 0b10000000#8 ++ 0b0001#4) = .ok (.rxByte 0x80#8) ∧
      decodeTxn 0x00000FF1#32 = .ok (.rxByte 0xFF#8) := by decide

theorem decode_rxIdle : decodeTxn 0x00000002#32 = .ok .rxIdle := by decide

/-- dom 01011, TAG 0011. -/
theorem decode_tick :
    decodeTxn (0b00000000000000000000000#23 ++ 0b01011#5 ++ 0b0011#4) = .ok (.tick 11#5) ∧
      decodeTxn 0x000001F3#32 = .ok (.tick 31#5) := by decide

theorem decode_enqGv : decodeTxn 0x00000004#32 = .ok .enqGv := by decide

theorem decode_enqGdt : decodeTxn 0x00000014#32 = .ok .enqGdt := by decide

theorem decode_enqGai : decodeTxn 0x00000024#32 = .ok .enqGai := by decide

/-- p2 00011111, p1 00000101, p2 valid 1, p1 valid 1, kind 11, TAG 0100. -/
theorem decode_enqAef :
    decodeTxn (0b00000000#8 ++ 0b00011111#8 ++ 0b00000101#8 ++ 0b1#1 ++ 0b1#1 ++ 0b11#2 ++ 0b0100#4) =
        .ok (.enqAef (some 5#8) (some 0x1F#8)) ∧
      decodeTxn 0x00000774#32 = .ok (.enqAef (some 7#8) none) ∧ decodeTxn 0x00000034#32 = .ok (.enqAef none none) := by
  decide

theorem decode_setDebug :
    decodeTxn 0x00000025#32 = .ok (.setDebug 2#2) ∧ decodeTxn 0x00000005#32 = .ok (.setDebug 0#2) := by decide

theorem decode_lineOpen : decodeTxn 0x00000006#32 = .ok .lineOpen := by decide

/-- The refused words of L2.8 that the encoding alone decides (R113). -/
theorem decode_refused :
    decodeTxn 0x00000007#32 = .error .reservedTag ∧ decodeTxn 0x0000000F#32 = .error .reservedTag ∧
      decodeTxn 0x00008010#32 = .error .strayBits ∧ decodeTxn 0x00001001#32 = .error .strayBits ∧
      decodeTxn 0x00000012#32 = .error .strayBits ∧ decodeTxn 0x00000016#32 = .error .strayBits ∧
      decodeTxn 0x00000044#32 = .error .enqParamOnKind ∧ decodeTxn 0x00000134#32 = .error .enqParamData := by decide

/-! ## Frames, byte by byte from R100 and the examples of R230 to R242 and R280 to R288 -/

/-- `80 80 80 LEN DEV NUM CMD` before the rest of a frame. -/
def sync3 (rest : List Byte) : List Byte := 0x80#8 :: 0x80#8 :: 0x80#8 :: rest

/-- The outbound decoder in the test binding. -/
def out (rest : List Byte) : Except DecodeError Instr := decodeOutbound Config.testBinding (sync3 rest)

/-- The inbound decoder in the test binding. -/
def inn (rest : List Byte) : Except DecodeError Instr := decodeInbound Config.testBinding (sync3 rest)

theorem decode_txGetversion : out [0#8, 0#8, 0#8, 0x01#8, 0x01#8] = .ok .txGetversion := by decide

theorem decode_txGetdevtype : out [0#8, 1#8, 1#8, 0x02#8, 0x04#8] = .ok (.txGetdevtype 1#8) := by decide

theorem decode_txGetactive : out [0#8, 0#8, 0#8, 0x04#8, 0x04#8] = .ok .txGetactive := by decide

theorem decode_txGetval :
    out [0#8, 1#8, 1#8, 0x10#8, 0x12#8] = .ok (.txGetval0 1#8) ∧ out [0#8, 1#8, 1#8, 0x11#8, 0x13#8] = .ok (.txGetval1 1#8) ∧
      out [0#8, 1#8, 1#8, 0x12#8, 0x14#8] = .ok (.txGetval2 1#8) ∧
      out [0#8, 1#8, 1#8, 0x13#8, 0x15#8] = .ok (.txGetval3 1#8) ∧
      out [0#8, 1#8, 1#8, 0x14#8, 0x16#8] = .ok (.txGetval4 1#8) ∧
      out [0#8, 1#8, 1#8, 0x15#8, 0x17#8] = .ok (.txGetval5 1#8) ∧
      out [0#8, 1#8, 1#8, 0x16#8, 0x18#8] = .ok (.txGetval6 1#8) ∧
      out [0#8, 1#8, 1#8, 0x17#8, 0x19#8] = .ok (.txGetval7 1#8) ∧
      out [0#8, 1#8, 1#8, 0x18#8, 0x1A#8] = .ok (.txGetval8 1#8) := by decide

theorem decode_txAef :
    out [2#8, 0#8, 0#8, 0xA5#8, 0x0B#8, 0x00#8, 0xB2#8] = .ok (.txAef 0x0B#8 0x00#8) := by decide

/-- The GetVersion reply of L1.6. -/
theorem decode_rxVersion :
    inn [4#8, 0#8, 0#8, 0x01#8, 1#8, 2#8, 3#8, 4#8, 0x0F#8] = .ok (.rxVersion 0#8 0#8 [1#8, 2#8, 3#8, 4#8]) := by decide

theorem decode_rxDevtype : inn [1#8, 1#8, 1#8, 0x02#8, 0x7B#8, 0x80#8] = .ok (.rxDevtype 1#8 1#8 [0x7B#8]) := by decide

theorem decode_rxActive : inn [2#8, 0#8, 0#8, 0x04#8, 1#8, 2#8, 9#8] = .ok (.rxActive 0#8 0#8 [1#8, 2#8]) := by decide

theorem decode_rxVal :
    inn [3#8, 1#8, 1#8, 0x10#8, 0x0B#8, 0xB8#8, 0x00#8, 0xD8#8] = .ok (.rxVal0 1#8 1#8 [0x0B#8, 0xB8#8, 0x00#8]) ∧
      inn [3#8, 1#8, 1#8, 0x11#8, 0x30#8, 0x39#8, 0x0B#8, 0x8A#8] = .ok (.rxVal1 1#8 1#8 [0x30#8, 0x39#8, 0x0B#8]) ∧
      inn [3#8, 1#8, 1#8, 0x12#8, 0x00#8, 0x64#8, 0x01#8, 0x7C#8] = .ok (.rxVal2 1#8 1#8 [0x00#8, 0x64#8, 0x01#8]) ∧
      inn [3#8, 1#8, 1#8, 0x13#8, 0x12#8, 0x34#8, 0xFC#8, 0x5A#8] = .ok (.rxVal3 1#8 1#8 [0x12#8, 0x34#8, 0xFC#8]) ∧
      inn [3#8, 1#8, 1#8, 0x14#8, 0x04#8, 0xD2#8, 0xFE#8, 0xED#8] = .ok (.rxVal4 1#8 1#8 [0x04#8, 0xD2#8, 0xFE#8]) ∧
      inn [3#8, 1#8, 1#8, 0x15#8, 0x08#8, 0xFC#8, 0xFF#8, 0x1D#8] = .ok (.rxVal5 1#8 1#8 [0x08#8, 0xFC#8, 0xFF#8]) ∧
      inn [3#8, 1#8, 1#8, 0x16#8, 0x13#8, 0x88#8, 0xFE#8, 0xB4#8] = .ok (.rxVal6 1#8 1#8 [0x13#8, 0x88#8, 0xFE#8]) ∧
      inn [3#8, 1#8, 1#8, 0x17#8, 0x00#8, 0x96#8, 0x00#8, 0xB2#8] = .ok (.rxVal7 1#8 1#8 [0x00#8, 0x96#8, 0x00#8]) ∧
      inn [3#8, 1#8, 1#8, 0x18#8, 0x0D#8, 0xAC#8, 0xFF#8, 0xD5#8] = .ok (.rxVal8 1#8 1#8 [0x0D#8, 0xAC#8, 0xFF#8]) := by
  decide

/-- Q-S2. -/
theorem decode_rxAef : inn [0#8, 0#8, 0#8, 0xA5#8, 0xA5#8] = .ok (.rxAef 0#8 0#8 []) := by decide

/-- Q-S5. -/
theorem decode_rxProtocolError : inn [0#8, 1#8, 2#8, 0x0E#8, 0x11#8] = .ok (.rxProtocolError 1#8 2#8 []) := by decide

/-- Q-S6. -/
theorem decode_rxErrorState : inn [1#8, 1#8, 1#8, 0x0F#8, 7#8, 0x19#8] = .ok (.rxErrorState 1#8 1#8 [7#8]) := by decide

/-- F10, F6 and an unlisted CMD (R108). -/
theorem decode_frame_refused :
    inn [1#8, 0#8, 0#8, 0x04#8, 1#8, 7#8] = .error .badChecksum ∧
      inn [9#8, 0#8, 0#8, 0x04#8, 0#8, 0#8, 0#8, 0#8, 0#8, 0#8, 0#8, 0#8, 0#8, 0x0D#8] = .error .lenTooLarge ∧
      inn [0#8, 0#8, 0#8, 0x77#8, 0x77#8] = .error .unknownCmd ∧ inn [0#8, 0#8, 0#8, 0x04#8] = .error .wrongLength := by
  decide

/-- The checksums of L2.1. -/
theorem checksum_vectors :
    checksum [0#8, 0#8, 0#8, 0#8] = 0x00#8 ∧ checksum [0#8, 0#8, 0#8, 1#8] = 0x01#8 ∧
      checksum [2#8, 0xFF#8, 0xFF#8, 0xFF#8, 0xFF#8, 0xFF#8] = 0xFD#8 ∧
      checksum [1#8, 0#8, 0#8, 0x10#8, 0x10#8] = 0x21#8 := by decide

/-- Rows of spec/opcode_table.json: a transaction, a request and a reply, by their table numbers. -/
theorem table_rows :
    decodeTableWord 8 0x02 = some .rxIdle ∧ decodeTableWord 56 0x80808000010112 = some (.txGetval2 1#8) ∧
      decodeTableWord 56 0x80808003010112 = some (.rxVal2 1#8 1#8 [0#8, 0#8, 0#8]) := by decide

/-! ## Small states -/

/-- A block with two known inverters, between sequences. -/
def busy : State :=
  { State.reset with
    cfgInvCount := 2#8, sqNActive := 2, sqActive := [1#8, 2#8, 0#8, 0#8, 0#8, 0#8, 0#8, 0#8], sqIdleNext := .gval
    now := 5000#32 }

/-- `busy` with a request outstanding, sent at time 3000. -/
def waiting (c : CmdKind) (cmd num : Byte) : State :=
  { busy with
    sqCur := c, sqSeqComplete := false, sqAwaiting := true, sqSendTime := 3000#32, sqOutCmd := cmd, sqOutNum := num }

/-- `busy` with the GetValues request of slot `k` outstanding. -/
def sweeping (k : Nat) : State := { waiting .gval (Config.testBinding.cmdVal k) 1#8 with sqValIdx := k }

/-- `busy` in the middle of a frame: the bytes received so far. -/
def receiving (bytes : List Byte) : State :=
  { busy with faPos := bytes.length, faBuf := bytes ++ List.replicate (16 - bytes.length) 0#8 }

/-- A transaction at the input port. -/
def given (w : Word32) (s : State) : State := { s with inq := [Txn.mk 6000#32 w] }

/-- The records of an outcome. -/
def records : Result → Option (List Record)
  | .next s => some s.outp
  | .fault _ => none
  | .refused _ => none

/-- A field of the next state. -/
def after {α : Type} (f : State → α) : Result → Option α
  | .next s => some (f s)
  | .fault _ => none
  | .refused _ => none

theorem busy_inv : busy.Inv :=
  ⟨by decide, fun _ => ⟨by decide, by decide, by decide, by decide, by decide, by decide⟩⟩

theorem waiting_gai_inv : (waiting .gai 4#8 0#8).Inv :=
  ⟨by decide, fun _ => ⟨by decide, by decide, by decide, by decide, by decide, by decide⟩⟩

theorem waiting_aef_inv : (waiting .aef 0xA5#8 0#8).Inv :=
  ⟨by decide, fun _ => ⟨by decide, by decide, by decide, by decide, by decide, by decide⟩⟩

theorem sweeping_first_inv : (sweeping 0).Inv :=
  ⟨by decide, fun _ => ⟨by decide, by decide, by decide, by decide, by decide, by decide⟩⟩

theorem sweeping_last_inv : (sweeping 8).Inv :=
  ⟨by decide, fun _ => ⟨by decide, by decide, by decide, by decide, by decide, by decide⟩⟩

/-- One byte short of the GetVersion request frame. -/
def almost : State := receiving [0x80#8, 0x80#8, 0x80#8, 0#8, 0#8, 0#8, 0x01#8]

theorem almost_inv : almost.Inv :=
  ⟨by decide, fun _ => ⟨by decide, by decide, by decide, by decide, by decide, by decide⟩⟩

/-! ## Single steps against the spec's vectors -/

/-- R360, its example. -/
theorem step_reset :
    after (fun s => (s.sqCur, s.sqSeqComplete, s.cfgInvCount, s.wdLastRx)) (step (given 0x00002030#32 busy)) =
      some (.gai, true, 3#8, 6000#32) := by decide

theorem step_reset_refused : step (given 0x00000090#32 busy) = .refused .resetInvCount := rfl

/-- Q1. -/
theorem step_enqGv : after (fun s => (s.qHead, s.qCount, s.outp)) (step (given 4#32 busy)) =
    some (1, 1, [.qresp .ok]) := by decide

/-- Q2, the eleventh. -/
theorem step_enqGdt_full : records (step (given 0x14#32 { busy with qCount := 10 })) =
    some [.log .warn 0x40#8 (.queueFull .gdt), .qresp .full] := by decide

theorem step_enqGai : after (fun s => s.qEnt.take 1) (step (given 0x24#32 busy)) =
    some [QEntry.mk .gai none none] := by decide

theorem step_enqAef : after (fun s => s.qEnt.take 1) (step (given 0x001F05F4#32 busy)) =
    some [QEntry.mk .aef (some 5#8) (some 0x1F#8)] := by decide

theorem step_setDebug : after (fun s => s.cfgDebug) (step (given 0x25#32 busy)) = some 2#2 := by decide

/-- F13. -/
theorem step_lineOpen : after (fun s => (s.faPos, s.outp)) (step (given 6#32 almost)) = some (0, []) := by decide

/-- F12. -/
theorem step_rxIdle : after (fun s => (s.faPos, s.outp)) (step (given 2#32 almost)) =
    some (7, [.log .warn 0x05#8 .zeroRead]) := by decide

/-- F1. -/
theorem step_rxByte_badSync : records (step (given 1#32 busy)) =
    some [.frame (.discard .badSync), .log .warn 0x01#8 (.syncErr 1#32 0#8 0)] := by decide

/-- Q-S7: a frame while nothing is outstanding. -/
theorem step_rxByte_complete : records (step (given 0x11#32 almost)) =
    some [.frame (.complete [0x80#8, 0x80#8, 0x80#8, 0#8, 0#8, 0#8, 1#8, 1#8]),
      .log .warn 0x33#8 (.unexpectedPacket 0#8 0#8 1#8 0)] := by decide

/-- Q-S12 and Q-S13: the request of `waiting` was sent at 3000. -/
theorem step_tick_deadline :
    records (exec (.tick 1#5) { waiting .gai 4#8 0#8 with now := 4999#32 }) = some [] ∧
      records (exec (.tick 1#5) { waiting .gai 4#8 0#8 with now := 5000#32 }) =
        some [.log .warn 0x30#8 (.replyTimeout 4#8 0#8)] := by decide

/-- The idle GetValues sweep starts (P1). -/
theorem step_tick_issue : records (exec (.tick 11#5) busy) =
    some [.tx [0x80#8, 0x80#8, 0x80#8, 0#8, 1#8, 1#8, 0x10#8, 0x12#8]] := by decide

/-- The request table of L2.6. -/
theorem exec_tx_getversion : records (exec .txGetversion busy) =
    some [.tx [0x80#8, 0x80#8, 0x80#8, 0#8, 0#8, 0#8, 1#8, 1#8]] := by decide

theorem exec_tx_getdevtype : records (exec (.txGetdevtype 1#8) busy) =
    some [.tx [0x80#8, 0x80#8, 0x80#8, 0#8, 1#8, 1#8, 2#8, 4#8]] := by decide

theorem exec_tx_getactive : records (exec .txGetactive busy) =
    some [.tx [0x80#8, 0x80#8, 0x80#8, 0#8, 0#8, 0#8, 4#8, 4#8]] := by decide

theorem exec_tx_getval8 : records (exec (.txGetval8 1#8) busy) =
    some [.tx [0x80#8, 0x80#8, 0x80#8, 0#8, 1#8, 1#8, 0x18#8, 0x1A#8]] := by decide

/-- Q5. -/
theorem exec_tx_aef : records (exec (.txAef 7#8 0#8) busy) =
    some [.tx [0x80#8, 0x80#8, 0x80#8, 2#8, 0#8, 0#8, 0xA5#8, 7#8, 0#8, 0xAE#8]] := by decide

/-- L1.6. -/
theorem exec_rx_version :
    after (fun s => (s.outp, s.sqSeqComplete)) (exec (.rxVersion 0#8 0#8 [1#8, 2#8, 3#8, 4#8]) (waiting .gv 1#8 0#8)) =
      some ([.log .info 0x35#8 (.versionInfo 1#8 [2#8, 3#8, 4#8])], true) := by decide

/-- Q-S10. -/
theorem exec_rx_devtype : records (exec (.rxDevtype 1#8 1#8 [0x7B#8]) (waiting .gdt 2#8 1#8)) =
    some [.log .info 0x36#8 (.devtypeInfo 1#8 0x7B#8)] := by decide

/-- Q-S16. -/
theorem exec_rx_active_zero :
    after (fun s => (s.outp, s.sqActive.take s.sqNActive, s.sqIdleNext))
        (exec (.rxActive 0#8 0#8 [0#8, 2#8]) (waiting .gai 4#8 0#8)) =
      some ([.log .warn 0x39#8 .zeroAddr], [1#8, 2#8], .gval) := by decide

/-- Q-S15. -/
theorem exec_rx_active_glitch :
    after (fun s => (s.outp, s.sqAwaiting)) (exec (.rxActive 0#8 0#8 [1#8, 0xFF#8]) (waiting .gai 4#8 0#8)) =
      some ([.log .warn 0x3A#8 (.glitchDiscard [1#8, 0xFF#8])], true) := by decide

/-- P2, slot 0. -/
theorem exec_rx_val0 :
    after (fun s => (valAt s 1#8 0, s.sqValIdx)) (exec (.rxVal0 1#8 1#8 [0x0B#8, 0xB8#8, 0#8]) (sweeping 0)) =
      some (some 3000000#64, 1) := by decide

/-- P2, slot 7. -/
theorem exec_rx_val7 :
    after (fun s => (s.outp, rejAt s 1#8 7)) (exec (.rxVal7 1#8 1#8 [0#8, 0x96#8, 0#8]) (sweeping 7)) =
      some ([.log .warn 0x20#8 (.filtReject 1#8 7 150000#64 0#64 0#2)], some 1#2) := by decide

/-- P2, slot 8: the report ends the sweep. -/
theorem exec_rx_val8 : records (exec (.rxVal8 1#8 1#8 [0x0D#8, 0xAC#8, 0xFF#8]) (sweeping 8)) =
    some [.report 1#8 [0#64, 0#64, 0#64, 0#64, 0#64, 0#64, 0#64, 0#64, 350000#64]] := by decide

/-- Q-S2. -/
theorem exec_rx_aef : records (exec (.rxAef 0#8 0#8 []) (waiting .aef 0xA5#8 0#8)) =
    some [.log .info 0x37#8 (.aefResult true true)] := by decide

/-- P4. -/
theorem exec_rx_protocolError : records (exec (.rxProtocolError 0#8 0#8 [0x23#8]) (waiting .aef 0xA5#8 0#8)) =
    some [.log .warn 0x31#8 (.protocolError 0#8 0#8 [0x23#8]), .log .warn 0x37#8 (.aefResult false true)] := by decide

/-- Q-S6. -/
theorem exec_rx_errorState :
    after (fun s => (s.outp, s.sqAwaiting, s.sqValIdx)) (exec (.rxErrorState 1#8 1#8 [7#8]) (sweeping 0)) =
      some ([.log .warn 0x32#8 (.errorState 1#8 1#8 [7#8])], false, 1) := by decide

/-- The exponent boundary table of R182. -/
theorem decoder_vectors :
    let d := decodeValue Config.testBinding 1#2
    (d 0#8 0x64#8 0xFC#8 0) = ⟨0#64, some (.decUnderflow 100#16 (-4) 0)⟩ ∧
      (d 0#8 0x64#8 0xFD#8 0) = ⟨100#64, none⟩ ∧ (d 0#8 0x64#8 0x0A#8 0) = ⟨1000000000000000#64, none⟩ ∧
      (d 0#8 0x64#8 0x0B#8 0) = ⟨100000#64, none⟩ ∧
      (d 0#8 0x64#8 0x0B#8 9) = ⟨0#64, some (.decOverflow 100#16 11 9)⟩ ∧ (d 0#8 0#8 0x0C#8 0) = ⟨0#64, none⟩ ∧
      (d 0xFF#8 0xFF#8 0x0A#8 0) = ⟨655350000000000000#64, none⟩ ∧ (d 0x08#8 0xFC#8 0x0B#8 5) = ⟨230000#64, none⟩ := by
  decide

/-- The value and counter FILTER answers. -/
def filterPair (idx cand prev cnt dcv : Nat) : Nat × Nat :=
  let r := filterValue (FilterArgs.mk 1#8 idx (BitVec.ofNat 64 cand) (BitVec.ofNat 64 prev) (BitVec.ofNat 2 cnt)
    (BitVec.ofNat 64 dcv))
  (r.value.toNat, r.counter.toNat)

/-- Vectors of L2.4: S1, S2, S5, S9, S11, S13, S16, S20, S21, S22. -/
theorem filter_vectors :
    filterPair 0 10000000 0 0 0 = (10000000, 0) ∧ filterPair 0 10000001 3000000 1 0 = (3000000, 2) ∧
      filterPair 1 25000001 15000000 0 0 = (15000000, 1) ∧ filterPair 4 100001 50000 0 0 = (50000, 1) ∧
      filterPair 5 199999 230000 0 300000 = (199999, 1) ∧ filterPair 5 150000 230000 3 300000 = (150000, 0) ∧
      filterPair 5 600000 150000 0 0 = (150000, 1) ∧ filterPair 8 600001 350000 2 350000 = (350000, 3) ∧
      filterPair 9 5 7 0 0 = (7, 1) ∧ filterPair 9 5 7 3 0 = (5, 0) := by decide

/-- R116 and R117. -/
theorem host_text :
    traceLine 10#32 (.enqAef (some 5#8) (some 0x1F#8)) = [Txn.mk 10#32 0x001F05F4#32] ∧
      (traceLine 30#32 (.rx [0x80#8, 0x0F#8])).map (·.op) = [0x00000801#32, 0x000000F1#32] ∧
      (ControlCommand.activateError [7, 256]).expand = none ∧
      (ControlCommand.debug 2).expand = some (.setDebug 2#2) := by decide

/-! ## Witnesses: the hypotheses of each obligation are met -/

theorem witness_DecodeEncodeRoundTrip :
    Config.testBinding.Wf ∧ wellFormed Config.testBinding (.rxActive 0#8 0#8 (List.replicate 8 1#8)) = true :=
  ⟨by decide, by decide⟩

theorem witness_TransactionWordsHaveOneMeaning : decodeTxn 0x001F05F4#32 = .ok (.enqAef (some 5#8) (some 0x1F#8)) := by
  decide

theorem witness_StepRunsDecodedTransaction :
    (given 0x13#32 busy).inq = [Txn.mk 6000#32 0x13#32] ∧ decodeTxn 0x13#32 = .ok (.tick 1#5) := by decide

theorem given_inv {s : State} (w : Word32) (h : s.Inv) : (given w s).Inv := h

/-- A word that R113 refuses (TICK with dom 0) and one that it does not. -/
theorem witness_StepRefusesExactlyIllegalTransactions :
    (given 3#32 busy).Inv ∧ (given 3#32 busy).inq = [Txn.mk 6000#32 3#32] ∧ IllegalTxn busy (3#32 : Word32).toNat ∧
      ¬ IllegalTxn busy (0x13#32 : Word32).toNat :=
  ⟨given_inv _ busy_inv, rfl, by simp [IllegalTxn], by simp [IllegalTxn, busy, State.reset]⟩

/-- One legal word of each transaction, RESET at the largest invCount. -/
theorem witness_LegalTransactionsComplete :
    (given 0x13#32 busy).Inv ∧ ¬ IllegalTxn busy (0x13#32 : Word32).toNat ∧
      ¬ IllegalTxn busy (0x4080#32 : Word32).toNat ∧ ¬ IllegalTxn busy (0x801#32 : Word32).toNat ∧
      ¬ IllegalTxn busy (0x1F05F4#32 : Word32).toNat :=
  ⟨given_inv _ busy_inv, by simp [IllegalTxn, busy, State.reset], by simp [IllegalTxn, busy, State.reset, Config.testBinding],
    by simp [IllegalTxn, busy, State.reset], by simp [IllegalTxn, busy, State.reset]⟩

theorem witness_StepKeepsInvariant : (given 0x11#32 almost).Inv ∧ ∃ s', step (given 0x11#32 almost) = .next s' :=
  ⟨given_inv _ almost_inv, _, rfl⟩

theorem witness_IllFormedInstructionsAreRefused :
    busy.sysLive = true ∧ wellFormed busy.params (.tick 0#5) = false ∧
      wellFormed busy.params (.rxAef 0#8 0#8 (List.replicate 9 0#8)) = false := by decide

theorem witness_NotLiveRefusesAllButReset :
    State.beforeReset.sysLive = false ∧ ∀ ic a d, Instr.rxIdle ≠ .reset ic a d := ⟨rfl, fun _ _ _ => Instr.noConfusion⟩

theorem witness_OnlyControlTransactionsConfigure :
    (given 0x13#32 busy).inq = [Txn.mk 6000#32 0x13#32] ∧ decodeTxn 0x13#32 = .ok (.tick 1#5) ∧
      (∃ s', step (given 0x13#32 busy) = .next s') ∧ (∀ ic a d, Instr.tick 1#5 ≠ .reset ic a d) ∧
      ∀ l, Instr.tick 1#5 ≠ .setDebug l :=
  ⟨rfl, by decide, ⟨_, rfl⟩, fun _ _ _ => Instr.noConfusion, fun _ => Instr.noConfusion⟩

theorem witness_RequestsGoOutOnlyOnTick :
    ∃ s', step (given 0x13#32 busy) = .next s' ∧ ∃ r ∈ s'.outp, r.isTx = true := ⟨_, rfl, by decide⟩

/-- The smallest and the largest legal operands. -/
theorem witness_ResetSetsEveryField :
    (1 ≤ (1#8 : Byte).toNat ∧ (1#8 : Byte).toNat ≤ busy.params.maxInv ∧ (0#2 : BitVec 2) ≠ 3#2) ∧
      1 ≤ (8#8 : Byte).toNat ∧ (8#8 : Byte).toNat ≤ busy.params.maxInv ∧ (2#2 : BitVec 2) ≠ 3#2 := by decide

theorem witness_ResetForgetsTheState :
    almost.params = (sweeping 8).params ∧ almost.now = (sweeping 8).now ∧
      (∃ t, exec (.reset 3#8 true 1#2) (sweeping 8) = .next t) ∧ ∃ t, exec (.reset 3#8 true 1#2) almost = .next t :=
  ⟨rfl, rfl, ⟨_, rfl⟩, _, rfl⟩

theorem witness_ResetEstablishesInvariant :
    almost.params.Wf ∧ ∃ t, exec (.reset 8#8 true 2#2) almost = .next t := ⟨by decide, _, rfl⟩

theorem witness_SetDebugSetsLevel : busy.sysLive = true ∧ (2#2 : BitVec 2) ≠ 3#2 ∧ (0#2 : BitVec 2) ≠ 3#2 := by decide

/-- The last free entry, and parameters both present and absent. -/
theorem witness_EnqueueAppends :
    { busy with qCount := 9 }.sysLive = true ∧ { busy with qCount := 9 }.qCount < busy.params.qCap ∧
      ((some 1#8 : Option Byte).isSome = true → (some 2#8 : Option Byte).isSome = true) ∧
      ((none : Option Byte).isSome = true → (none : Option Byte).isSome = true) := by decide

theorem witness_FullQueueDropsRequest :
    { busy with qCount := 10 }.sysLive = true ∧ { busy with qCount := 10 }.qCount = busy.params.qCap := by decide

/-- One clause each: a queue with one free entry, and a full one. -/
theorem witness_QueueIsFifo :
    ({ busy with qCount := 9, qHead := 9 }.QueueWf ∧ busy.qEnt.length = busy.params.qCap ∧ 9 < busy.params.qCap ∧
        (0 : Nat) < 9) ∧
      { busy with qCount := 10 }.QueueWf ∧ { busy with qCount := 10 }.qCount = busy.params.qCap := by decide

/-- Positions 0 and 2, the sync byte and another, and another instruction that completes. -/
theorem witness_SyncPositions :
    (busy.sysLive = true ∧ busy.faPos < 3 ∧ (receiving [0x80#8, 0x80#8]).faPos = 2 ∧ (2 : Nat) < 3 ∧
        (0x7F#8 : Byte) ≠ 0x80#8) ∧
      (∃ t, exec .rxIdle busy = .next t) ∧ ∀ ic a d, Instr.rxIdle ≠ .reset ic a d :=
  ⟨by decide, ⟨_, rfl⟩, fun _ _ _ => Instr.noConfusion⟩

/-- LEN at the bound and one above it. -/
theorem witness_LengthPosition :
    let s := receiving [0x80#8, 0x80#8, 0x80#8]
    s.sysLive = true ∧ s.faPos = 3 ∧ 8 ≤ s.params.bufSize ∧ (8#8 : Byte).toNat ≤ s.params.maxInv ∧
      s.params.maxInv < (9#8 : Byte).toNat := by decide

/-- The buffer of F11, and a buffer of `P_MAX_INV + 8`. -/
theorem witness_OverflowPosition :
    (let s := { busy with params := { Config.testBinding with bufSize := 10 }, faPos := 10 };
      s.sysLive = true ∧ 3 ≤ s.faPos ∧ s.faPos = s.params.bufSize) ∧
      almost.Inv ∧ almost.sysLive = true ∧ almost.params.maxInv + 8 ≤ almost.params.bufSize :=
  ⟨by decide, almost_inv, rfl, by decide⟩

/-- The first body position, and the last but one for LEN 0. -/
theorem witness_BodyPosition :
    let s := receiving [0x80#8, 0x80#8, 0x80#8, 0#8]
    let t := receiving [0x80#8, 0x80#8, 0x80#8, 0#8, 0#8, 0#8]
    s.sysLive = true ∧ 4 ≤ s.faPos ∧ s.faPos < s.params.bufSize ∧ s.faBuf[3]? = some 0#8 ∧
      s.faPos < (0#8 : Byte).toNat + 7 ∧ t.faBuf[3]? = some 0#8 ∧ t.faPos = 6 ∧ 6 < (0#8 : Byte).toNat + 7 := by
  decide

/-- The checksum of the frame, and another byte. -/
theorem witness_LastPosition :
    almost.sysLive = true ∧ almost.faPos < almost.params.bufSize ∧ almost.faBuf.length = almost.params.bufSize ∧
      almost.faBuf[3]? = some 0#8 ∧ almost.faPos = (0#8 : Byte).toNat + 7 ∧
      (1#8 : Byte).toNat = (((almost.faBuf.drop 3).take ((0#8 : Byte).toNat + 4)).map BitVec.toNat).sum % 256 ∧
      (2#8 : Byte).toNat ≠ (((almost.faBuf.drop 3).take ((0#8 : Byte).toNat + 4)).map BitVec.toNat).sum % 256 := by
  decide

theorem witness_CompletedFrameRunsItsInstruction :
    almost.Inv ∧ almost.sysLive = true ∧
      decodeInbound almost.params (almost.faBuf.take almost.faPos ++ [1#8]) = .ok (.rxVersion 0#8 0#8 []) :=
  ⟨almost_inv, rfl, by decide⟩

theorem witness_OneFrameRecordPerByte : ∃ s', exec (.rxByte 1#8) almost = .next s' := ⟨_, rfl⟩

theorem witness_CompleteFramesAreValid :
    almost.Inv ∧ almost.sysLive = true ∧
      ∃ s' recs, exec (.rxByte 1#8) almost = .next s' ∧
        s'.outp = almost.outp ++ .frame (.complete (sync3 [0#8, 0#8, 0#8, 1#8, 1#8])) :: recs :=
  ⟨almost_inv, rfl, _, _, rfl, rfl⟩

theorem witness_OnlyCompleteFramesReachSequencer :
    ∃ s', exec (.rxByte 2#8) almost = .next s' ∧
      s'.outp.drop almost.outp.length = [.frame (.discard .badCsum), .log .warn 0x03#8 (.csumErr 1#8 2#8)] ∧
      ∀ bytes, Record.frame (.complete bytes) ∉ s'.outp.drop almost.outp.length := by
  refine ⟨_, rfl, by decide, ?_⟩
  intro bytes h
  rw [show List.drop _ _ = [Record.frame (.discard .badCsum), Record.log .warn 0x03#8 (.csumErr 1#8 2#8)] by decide] at h
  simp at h

/-- An empty payload, and one at the bound. -/
theorem witness_FrameReception :
    busy.Inv ∧ busy.sysLive = true ∧ busy.faPos = 0 ∧ (List.replicate 8 1#8).length ≤ busy.params.maxInv ∧
      (List.replicate 8 1#8).length + 8 ≤ busy.params.bufSize ∧ ([] : List Byte).length + 8 ≤ busy.params.bufSize :=
  ⟨busy_inv, rfl, rfl, by decide, by decide, by decide⟩

/-- The first and the last offset that may change (L2.1). -/
theorem witness_SingleByteErrorsAreDetected :
    busy.Inv ∧ busy.sysLive = true ∧ busy.faPos = 0 ∧ [0x10#8].length ≤ busy.params.maxInv ∧
      [0x10#8].length + 8 ≤ busy.params.bufSize ∧ 4 ≤ [0x10#8].length + 7 ∧
      (frame 0#8 0#8 0x10#8 [0x10#8])[4]? ≠ some 1#8 ∧ (frame 0#8 0#8 0x10#8 [0x10#8])[8]? ≠ some 0x20#8 :=
  ⟨busy_inv, rfl, rfl, by decide, by decide, by decide, by decide, by decide⟩

/-- The one hypothesis of RxIdleLogsZeroRead, LineOpenAbandonsFrame, BroadcastRequests, DeviceTypeRequest and
ErrorForwardingRequest. -/
theorem witness_live : busy.sysLive = true := rfl

/-- The two ends of the exponent range (R182). -/
theorem witness_DecodeExactInRange :
    decodeExponent Config.testBinding 0xFD#8 0 = -3 ∧ decodeExponent Config.testBinding 0x0A#8 0 = 10 := by decide

/-- The first exponents outside (R182). -/
theorem witness_DecodeOutOfRange :
    decodeExponent Config.testBinding 0xFC#8 0 < -3 ∧ 10 < decodeExponent Config.testBinding 0x0B#8 9 ∧
      Config.testBinding.Wf := ⟨by decide, by decide, by decide⟩

theorem witness_ExponentSubstitution :
    Config.testBinding.Wf ∧ (8 : Nat) < 9 ∧ ¬ ((11#8 : Byte) = 11#8 ∧ 9 < 9) ∧ ¬ ((10#8 : Byte) = 11#8 ∧ 8 < 9) :=
  ⟨by decide, by decide, by decide, by decide⟩

/-- Slot 0 at its bound and one above, with two rejections. -/
theorem witness_FilterBounds :
    (2#2 : BitVec 2).toNat ≤ 2 ∧ (0 : Nat) < 9 ∧ (0 : Nat) ≠ 5 ∧ ¬ (10000000 < (10000000#64 : BitVec 64).toNat) ∧
      10000000 < (10000001#64 : BitVec 64).toNat := by decide

/-- The brownout, its boundary value, and the bound (S10, S11, S17). -/
theorem witness_FilterAcVoltage :
    (200000 < (230000#64 : BitVec 64).toNat ∧ (199999#64 : BitVec 64).toNat < 200000 ∧ 0 < (300000#64 : BitVec 64).toNat) ∧
      ¬ ((200000#64 : BitVec 64).toNat < 200000) ∧ (200000#64 : BitVec 64).toNat ≤ 550000 ∧
      550000 < (550001#64 : BitVec 64).toNat := by decide

/-- S22, and S21 with the most rejections below the override. -/
theorem witness_FilterOverride :
    2 < (FilterArgs.mk 1#8 9 5#64 7#64 3#2 0#64).cnt.toNat ∧ 9 ≤ (FilterArgs.mk 1#8 9 5#64 7#64 2#2 0#64).idx ∧
      (FilterArgs.mk 1#8 9 5#64 7#64 2#2 0#64).cnt.toNat ≤ 2 := by decide

/-- A sweep at slot 0 with no request outstanding. -/
theorem witness_TickRunsPendingRequest :
    { sweeping 0 with sqAwaiting := false }.Inv ∧ { sweeping 0 with sqAwaiting := false }.sysLive = true ∧
      (1#5 : BitVec 5) ≠ 0#5 ∧ { sweeping 0 with sqAwaiting := false }.sqAwaiting = false ∧
      { sweeping 0 with sqAwaiting := false }.sqSeqComplete = false :=
  ⟨⟨by decide, fun _ => ⟨by decide, by decide, by decide, by decide, by decide, by decide⟩⟩, rfl, by decide, rfl, rfl⟩

/-- A queued command, and an empty queue (`busy`). -/
theorem witness_TickStartsNextSequence :
    { busy with qCount := 1, qHead := 1 }.Inv ∧ busy.Inv ∧ busy.sqAwaiting = false ∧ busy.sqSeqComplete = true ∧
      queued { busy with qCount := 1, qHead := 1 } = [some (QEntry.mk .gv none none)] ∧ busy.qCount = 0 ∧
      (31#5 : BitVec 5) ≠ 0#5 :=
  ⟨⟨by decide, fun _ => ⟨by decide, by decide, by decide, by decide, by decide, by decide⟩⟩, busy_inv, rfl, rfl, by decide,
    rfl, by decide⟩

theorem witness_TickSendsOneRequest :
    busy.Inv ∧ busy.sysLive = true ∧ (1#5 : BitVec 5) ≠ 0#5 ∧ busy.sqAwaiting = false := ⟨busy_inv, rfl, by decide, rfl⟩

/-- The last millisecond of the wait. -/
theorem witness_TickWaitsForReply :
    let s := { waiting .gai 4#8 0#8 with now := 4999#32 }
    s.sysLive = true ∧ (1#5 : BitVec 5) ≠ 0#5 ∧ s.sqAwaiting = true ∧ (s.now - s.sqSendTime).toNat = 1999 ∧
      (1999 : Nat) < 2000 := by decide

/-- The deadline itself, in a sweep's last slot and in a discovery. -/
theorem witness_TickTimesOut :
    (sweeping 8).Inv ∧ (waiting .gai 4#8 0#8).Inv ∧ (sweeping 8).sysLive = true ∧ (1#5 : BitVec 5) ≠ 0#5 ∧
      (sweeping 8).sqAwaiting = true ∧ 2000 ≤ ((sweeping 8).now - (sweeping 8).sqSendTime).toNat ∧
      (sweeping 8).sqCur = .gval ∧ (waiting .gai 4#8 0#8).sqCur ≠ .gval :=
  ⟨sweeping_last_inv, waiting_gai_inv, rfl, by decide, rfl, by decide, rfl, by decide⟩

theorem witness_ValueRequests : busy.sysLive = true ∧ (0 : Nat) < 9 ∧ (8 : Nat) < 9 := by decide

theorem witness_UnexpectedFramesChangeNothing :
    busy.sysLive = true ∧
      parseFrame (sync3 [1#8, 0#8, 0#8, 0x04#8, 1#8, 6#8]) = .ok (FrameFields.mk 0#8 0#8 4#8 [1#8]) ∧
      decodeInbound busy.params (sync3 [1#8, 0#8, 0#8, 0x04#8, 1#8, 6#8]) = .ok (.rxActive 0#8 0#8 [1#8]) ∧
      (4#8 : Byte) ≠ busy.params.cmdPerr ∧ (4#8 : Byte) ≠ busy.params.cmdEstate ∧ ¬ Answers busy 0#8 4#8 := by decide

/-- A reply with its type byte, and an empty one. -/
theorem witness_VersionReplyEndsSequence :
    let s := waiting .gv 1#8 0#8
    s.params.Wf ∧ s.sysLive = true ∧ wellFormed s.params (.rxVersion 0#8 0#8 [1#8]) = true ∧
      wellFormed s.params (.rxVersion 0#8 0#8 []) = true ∧ Answers s 0#8 s.params.cmdGv ∧ s.sqCur = .gv :=
  ⟨by decide, rfl, by decide, by decide, by decide, rfl⟩

theorem witness_DeviceTypeReplyEndsSequence :
    let s := waiting .gdt 2#8 1#8
    s.params.Wf ∧ s.sysLive = true ∧ wellFormed s.params (.rxDevtype 1#8 1#8 [0x7B#8]) = true ∧
      wellFormed s.params (.rxDevtype 1#8 1#8 []) = true ∧ Answers s 1#8 s.params.cmdGdt ∧ s.sqCur = .gdt :=
  ⟨by decide, rfl, by decide, by decide, by decide, rfl⟩

theorem witness_GlitchDiscoveryIsDiscarded :
    let s := waiting .gai 4#8 0#8
    s.params.Wf ∧ s.sysLive = true ∧ wellFormed s.params (.rxActive 0#8 0#8 [1#8, 0xFF#8]) = true ∧
      Answers s 0#8 s.params.cmdGai ∧ s.sqCur = .gai ∧ s.params.glitchAddr ∈ [1#8, 0xFF#8] :=
  ⟨by decide, rfl, by decide, by decide, rfl, by decide⟩

/-- The smallest address above `cfg_invCount` = 2, after a 0. -/
theorem witness_ConfigErrorKeepsDiscovery :
    let s := waiting .gai 4#8 0#8
    s.params.Wf ∧ s.sysLive = true ∧ wellFormed s.params (.rxActive 0#8 0#8 [0#8, 3#8]) = true ∧
      Answers s 0#8 s.params.cmdGai ∧ s.sqCur = .gai ∧ s.params.glitchAddr ∉ [0#8, 3#8] ∧
      [0#8, 3#8] = [0#8] ++ 3#8 :: [] ∧ s.cfgInvCount.toNat < (3#8 : Byte).toNat ∧ 1 ≤ s.cfgInvCount.toNat ∧
      ∀ b ∈ [0#8], b.toNat ≤ s.cfgInvCount.toNat :=
  ⟨by decide, rfl, by decide, by decide, rfl, by decide, rfl, by decide, by decide, by decide⟩

/-- Addresses 0 and `cfg_invCount` itself, and the empty discovery. -/
theorem witness_DiscoveryCommits :
    let s := waiting .gai 4#8 0#8
    s.params.Wf ∧ s.sysLive = true ∧ wellFormed s.params (.rxActive 0#8 0#8 [0#8, 2#8]) = true ∧
      wellFormed s.params (.rxActive 0#8 0#8 []) = true ∧ Answers s 0#8 s.params.cmdGai ∧ s.sqCur = .gai ∧
      s.params.glitchAddr ∉ [0#8, 2#8] ∧ 1 ≤ s.cfgInvCount.toNat ∧ ∀ b ∈ [0#8, 2#8], b.toNat ≤ s.cfgInvCount.toNat :=
  ⟨by decide, rfl, by decide, by decide, by decide, rfl, by decide, by decide, by decide⟩

/-- The first and the last slot. -/
theorem witness_ValueReplyStoresFilteredValue :
    (sweeping 0).Inv ∧ (sweeping 8).Inv ∧ (sweeping 0).sysLive = true ∧
      wellFormed (sweeping 0).params (rxValInstr 0 1#8 1#8 [0x0B#8, 0xB8#8, 0#8]) = true ∧
      Answers (sweeping 0) 1#8 ((sweeping 0).params.cmdVal 0) ∧ Answers (sweeping 8) 1#8 ((sweeping 8).params.cmdVal 8) ∧
      (sweeping 0).sqCur = .gval ∧ (sweeping 0).sqValIdx = 0 ∧ (sweeping 8).sqValIdx = 8 :=
  ⟨sweeping_first_inv, sweeping_last_inv, rfl, by decide, by decide, by decide, rfl, rfl, rfl⟩

/-- Q-S8, and a payload one byte too long. -/
theorem witness_MalformedValueReplySkipsSlot :
    (sweeping 0).Inv ∧ (sweeping 0).sysLive = true ∧
      wellFormed (sweeping 0).params (rxValInstr 0 1#8 1#8 [1#8, 2#8]) = true ∧ [1#8, 2#8].length ≠ 3 ∧
      [1#8, 2#8, 3#8, 4#8].length ≠ 3 ∧ Answers (sweeping 0) 1#8 ((sweeping 0).params.cmdVal 0) ∧
      (sweeping 0).sqCur = .gval ∧ (sweeping 0).sqValIdx = 0 :=
  ⟨sweeping_first_inv, rfl, by decide, by decide, by decide, by decide, rfl, rfl⟩

/-- The first and the last slot. -/
theorem witness_SweepStepReportsAtEnd :
    ((sweeping 0).Inv ∧ (sweeping 0).sysLive = true ∧ (sweeping 0).sqCur = .gval ∧ (sweeping 0).sqSeqComplete = false ∧
        (sweeping 0).sqValIdx ≠ 8) ∧
      (sweeping 8).Inv ∧ (sweeping 8).sysLive = true ∧ (sweeping 8).sqCur = .gval ∧
      (sweeping 8).sqSeqComplete = false ∧ (sweeping 8).sqValIdx = 8 :=
  ⟨⟨sweeping_first_inv, rfl, rfl, rfl, by decide⟩, sweeping_last_inv, rfl, rfl, rfl, rfl⟩

theorem witness_ErrorForwardingReplyCompletes :
    let s := waiting .aef 0xA5#8 0#8
    s.params.Wf ∧ s.sysLive = true ∧ wellFormed s.params (.rxAef 0#8 0#8 []) = true ∧ Answers s 0#8 s.params.cmdAef ∧
      s.sqCur = .aef :=
  ⟨by decide, rfl, by decide, by decide, rfl⟩

/-- With nothing outstanding, and with the wrong NUM (Q-S5). -/
theorem witness_UnrelatedErrorFramesAreLogged :
    busy.params.Wf ∧ busy.sysLive = true ∧ wellFormed busy.params (.rxProtocolError 1#8 2#8 []) = true ∧
      ¬ (busy.sqAwaiting = true ∧ (2#8 : Byte) = busy.sqOutNum) ∧
      ¬ ((sweeping 0).sqAwaiting = true ∧ (2#8 : Byte) = (sweeping 0).sqOutNum) :=
  ⟨by decide, rfl, by decide, by decide, by decide⟩

/-- One state for each clause: a sweep, a discovery and an activation. -/
theorem witness_ErrorResponsesEndExchange :
    ((sweeping 0).Inv ∧ (waiting .gai 4#8 0#8).Inv ∧ (waiting .aef 0xA5#8 0#8).Inv) ∧ (sweeping 0).sysLive = true ∧
      wellFormed (sweeping 0).params (.rxProtocolError 1#8 1#8 [7#8]) = true ∧ (sweeping 0).sqAwaiting = true ∧
      (1#8 : Byte) = (sweeping 0).sqOutNum ∧ (sweeping 0).sqCur = .gval ∧ (waiting .gai 4#8 0#8).sqCur = .gai ∧
      (waiting .aef 0xA5#8 0#8).sqCur = .aef :=
  ⟨⟨sweeping_first_inv, waiting_gai_inv, waiting_aef_inv⟩, rfl, by decide, rfl, rfl, rfl, rfl, rfl⟩

end Sys2Proof.Tests
end

section
/-! PROOFS. Which transactions a step refuses (spec/30_encoding.md R113): first what each operation refuses, then what each
instruction does, then the transaction words, TAG by TAG. -/

namespace Sys2Proof.Machine

/-! ## Refused outcomes -/

/-- The outcome is a refusal. -/
def Refuses (r : Result) : Prop := ∃ q, r = .refused q

@[simp] theorem refuses_refused (q : Refusal) : Refuses (.refused q) := ⟨q, rfl⟩

@[simp] theorem not_refuses_next (t : State) : ¬ Refuses (.next t) := by simp [Refuses]

@[simp] theorem not_refuses_fault (f : Fault) : ¬ Refuses (.fault f) := by simp [Refuses]

@[simp] theorem whenLive_refuses {s : State} {r : Result} :
    Refuses (whenLive s r) ↔ Refuses r ∨ s.sysLive = false := by
  cases h : s.sysLive <;> simp [h]

/-! ## The operations that refuse nothing -/

theorem sweepEnd_not_refuses (s : State) : ¬ Refuses (sweepEnd s) := by
  unfold sweepEnd
  split
  · simp
  split
  · simp
  split <;> simp

theorem stepDone_not_refuses (ok : Bool) (s : State) : ¬ Refuses (stepDone ok s) := by
  unfold stepDone
  cases s.sqCur with
  | gval =>
    simp only [sweepStep]
    split
    · exact sweepEnd_not_refuses _
    · simp
  | gv | gdt | gai | aef => simp

theorem errorResponse_not_refuses (num : Byte) (s : State) : ¬ Refuses (errorResponse num s) := by
  unfold errorResponse
  split
  · exact stepDone_not_refuses _ _
  · simp

theorem discoveryOutcome_not_refuses (addrs : List Byte) (s : State) : ¬ Refuses (discoveryOutcome addrs s) := by
  unfold discoveryOutcome
  split <;> exact stepDone_not_refuses _ _

theorem storeValue_not_refuses (k : Nat) (num hi lo eb : Byte) (s : State) :
    ¬ Refuses (storeValue k num hi lo eb s) := by
  unfold storeValue
  split
  · exact stepDone_not_refuses _ _
  · simp

theorem matchedReply_not_refuses (num cmd : Byte) (pl : List Byte) (s : State) :
    ¬ Refuses (matchedReply num cmd pl s) := by
  unfold matchedReply
  cases s.sqCur with
  | gv => cases pl <;> exact stepDone_not_refuses _ _
  | gdt => cases pl <;> exact stepDone_not_refuses _ _
  | gai =>
    simp only [activeReply]
    split
    · simp
    · exact discoveryOutcome_not_refuses _ _
  | gval =>
    simp only [valueReply]
    split
    · split
      · exact storeValue_not_refuses _ _ _ _ _ _
      · exact stepDone_not_refuses _ _
    · simp
  | aef => exact stepDone_not_refuses _ _

theorem dispatch_not_refuses (dev num cmd : Byte) (pl : List Byte) (s : State) :
    ¬ Refuses (dispatch dev num cmd pl s) := by
  unfold dispatch
  split
  · exact errorResponse_not_refuses _ _
  split
  · exact errorResponse_not_refuses _ _
  split
  · exact matchedReply_not_refuses _ _ _ _
  · simp

theorem bodyByte_not_refuses (b : Byte) (p : Nat) (s : State) : ¬ Refuses (bodyByte b p s) := by
  unfold bodyByte
  split
  · simp
  split
  · simp
  split
  · simp only [lastByte]
    split
    · exact dispatch_not_refuses _ _ _ _ _
    · simp
  · simp

theorem ingest_not_refuses (b : Byte) (s : State) : ¬ Refuses (ingest b s) := by
  unfold ingest
  split
  · simp
  split
  · simp
  split
  · simp
  · exact bodyByte_not_refuses _ _ _

/-! ## TICK

A request refuses only a block that is not live, and nothing that a TICK does before it changes `sys_live`. -/

theorem requestValue_not_refuses {s : State} (hl : s.sysLive = true) (k : Nat) (n : Byte) :
    ¬ Refuses (requestValue k n s) := by
  simp [requestValue, hl]

theorem issueValue_not_refuses {s : State} (hl : s.sysLive = true) (n : Byte) : ¬ Refuses (issueValue n s) := by
  unfold issueValue
  split
  case h_10 => exact not_refuses_fault _
  all_goals exact requestValue_not_refuses hl _ n

theorem issue_not_refuses {s : State} (hl : s.sysLive = true) (dom : BitVec 5) : ¬ Refuses (issue dom s) := by
  unfold issue
  cases s.sqCur with
  | gv => simp [execTxGetversion, hl]
  | gdt => cases devTarget s <;> simp [execTxGetdevtype, hl]
  | gai => simp [execTxGetactive, hl]
  | gval =>
    cases valTarget s with
    | none => simp
    | some n => exact issueValue_not_refuses hl n
  | aef => simp [execTxAef, hl]

theorem sequenceStart_sysLive {s t : State} (h : sequenceStart s = some t) : t.sysLive = s.sysLive := by
  unfold sequenceStart at h
  split at h
  · cases hd : dequeue s with
    | none => simp [hd] at h
    | some x =>
      obtain ⟨e, s'⟩ := x
      obtain ⟨-, rfl⟩ := dequeue_eq_some.1 hd
      simp only [hd, Option.some.injEq] at h
      simp [← h]
  · simp only [Option.some.injEq] at h
    simp [← h]

theorem issueNext_not_refuses {s : State} (hl : s.sysLive = true) (dom : BitVec 5) : ¬ Refuses (issueNext dom s) := by
  unfold issueNext
  split
  · cases h : sequenceStart s with
    | none => simp
    | some t => exact issue_not_refuses ((sequenceStart_sysLive h).trans hl) dom
  · exact issue_not_refuses hl dom

theorem sequencerTick_not_refuses {s : State} (hl : s.sysLive = true) (dom : BitVec 5) :
    ¬ Refuses (sequencerTick dom s) := by
  unfold sequencerTick timeoutCheck
  split
  · split
    · exact stepDone_not_refuses _ _
    · simp
  · exact issueNext_not_refuses hl dom

/-! ## The instructions -/

theorem execReset_refuses {s : State} {invCount : Byte} {autoAef : Bool} {debug : BitVec 2} :
    Refuses (execReset invCount autoAef debug s) ↔ WellFormed.resetFields s.params invCount debug = false := by
  have hzero : invCount = 0#8 ↔ invCount.toNat = 0 := by rw [← BitVec.toNat_inj, BitVec.toNat_ofNat, Nat.zero_mod]
  simp only [execReset, hzero, WellFormed.resetFields]
  by_cases hc : invCount.toNat = 0 ∨ s.params.maxInv < invCount.toNat
  · simp [hc]
    omega
  · have hlegal : 1 ≤ invCount.toNat ∧ invCount.toNat ≤ s.params.maxInv := by omega
    by_cases hd : debug = 3#2 <;> simp [hc, hlegal, hd]

theorem execTick_refuses {s : State} {dom : BitVec 5} :
    Refuses (execTick dom s) ↔ WellFormed.tickFields dom = false ∨ s.sysLive = false := by
  rw [execTick, whenLive_refuses]
  cases hl : s.sysLive with
  | false => simp
  | true =>
    have hw : (watchdog s).sysLive = true := by rw [watchdog_eq, hl]
    by_cases hd : dom = 0#5
    · simp [hd, WellFormed.tickFields]
    · simp [hd, WellFormed.tickFields, sequencerTick_not_refuses hw]

theorem execEnqAef_refuses {s : State} {p1 p2 : Option Byte} :
    Refuses (execEnqAef p1 p2 s) ↔ WellFormed.enqAefFields p1 p2 = false ∨ s.sysLive = false := by
  rw [execEnqAef, whenLive_refuses]
  cases p1 <;> cases p2 <;> simp [WellFormed.enqAefFields]

theorem execSetDebug_refuses {s : State} {level : BitVec 2} :
    Refuses (execSetDebug level s) ↔ WellFormed.setDebugFields level = false ∨ s.sysLive = false := by
  rw [execSetDebug, whenLive_refuses]
  by_cases h : level = 3#2 <;> simp [h, WellFormed.setDebugFields]

theorem whenLive_next_refuses {s t : State} : Refuses (whenLive s (.next t)) ↔ s.sysLive = false := by simp

theorem receive_refuses {s : State} {dev num cmd : Byte} {pl : List Byte} :
    Refuses (receive dev num cmd pl s) ↔ WellFormed.inboundPayload s.params pl = false ∨ s.sysLive = false := by
  rw [receive, whenLive_refuses]
  change Refuses (if WellFormed.inboundPayload s.params pl = true then _ else _) ∨ _ ↔ _
  cases h : WellFormed.inboundPayload s.params pl <;> simp [dispatch_not_refuses]

/-- RESET, the one instruction that a block runs before its first RESET (R49). -/
def isReset : Instr → Bool
  | .reset _ _ _ => true
  | _ => false

/-- R113 on the operands and `sys_live`: the meaning refuses an instruction exactly when it is ill-formed, or not RESET on a
block that is not live. -/
theorem exec_refuses_iff (i : Instr) (s : State) :
    Refuses (exec i s) ↔ wellFormed s.params i = false ∨ (isReset i = false ∧ s.sysLive = false) := by
  cases i with
  | reset => exact execReset_refuses.trans (by simp [wellFormed, isReset])
  | tick => exact execTick_refuses.trans (by simp [wellFormed, isReset])
  | enqAef => exact execEnqAef_refuses.trans (by simp [wellFormed, isReset])
  | setDebug => exact execSetDebug_refuses.trans (by simp [wellFormed, isReset])
  | rxByte b => exact whenLive_refuses.trans (by simp [ingest_not_refuses, wellFormed, isReset])
  | rxIdle | lineOpen | enqGv | enqGdt | enqGai | txGetversion | txGetdevtype | txGetactive | txGetval0 | txGetval1
  | txGetval2 | txGetval3 | txGetval4 | txGetval5 | txGetval6 | txGetval7 | txGetval8 | txAef =>
    exact whenLive_next_refuses.trans (by simp [wellFormed, isReset])
  | rxVersion | rxDevtype | rxActive | rxVal0 | rxVal1 | rxVal2 | rxVal3 | rxVal4 | rxVal5 | rxVal6 | rxVal7 | rxVal8
  | rxAef | rxProtocolError | rxErrorState =>
    exact receive_refuses.trans (by simp [wellFormed, isReset])

/-! ## The fields of a transaction word, as numbers -/

theorem field_toNat (w : Word32) (lo n : Nat) : (field w lo n).toNat = w.toNat / 2 ^ lo % 2 ^ n := by
  rw [field, BitVec.extractLsb'_toNat, Nat.shiftRight_eq_div_pow]

theorem field_tag {w : Word32} {k : Nat} (h : w.toNat % 16 = k) : (field w 0 4).toNat = k := by
  simpa [field_toNat] using h

theorem field_eq_iff {w : Word32} {lo n : Nat} {x : BitVec n} : field w lo n = x ↔ w.toNat / 2 ^ lo % 2 ^ n = x.toNat := by
  rw [← field_toNat, BitVec.toNat_inj]

/-- The bits from `lo` up are all 0 exactly when the number is below `2 ^ lo`. -/
theorem top_field_ne_zero {w : Word32} {lo n : Nat} (h : lo + n = 32) : field w lo n ≠ 0#n ↔ 2 ^ lo ≤ w.toNat := by
  have hlt : w.toNat / 2 ^ lo < 2 ^ n := by
    rw [Nat.div_lt_iff_lt_mul (Nat.two_pow_pos lo), ← Nat.pow_add, Nat.add_comm n lo, h]
    exact w.isLt
  rw [ne_eq, field_eq_iff, BitVec.toNat_ofNat, Nat.zero_mod, Nat.mod_eq_of_lt hlt,
    Nat.div_eq_zero_iff_lt (Nat.two_pow_pos lo), Nat.not_lt]

theorem getLsbD_eq_true_iff {w : Word32} {i : Nat} : w.getLsbD i = true ↔ w.toNat / 2 ^ i % 2 = 1 := by
  rw [BitVec.getLsbD, Nat.testBit_eq_decide_div_mod_eq, decide_eq_true_eq]

theorem getLsbD_eq_false_iff {w : Word32} {i : Nat} : w.getLsbD i = false ↔ w.toNat / 2 ^ i % 2 = 0 := by
  rw [← Bool.not_eq_true, getLsbD_eq_true_iff]
  omega

/-! ## The words that are refused, TAG by TAG -/

/-- The word `w` is refused in the state `s`: it is no transaction, or the meaning of the one it stands for refuses it
(`exec_refuses_iff`). -/
def WordRefused (s : State) (w : Word32) : Prop :=
  ∀ i, decodeTxn w = .ok i → wellFormed s.params i = false ∨ (isReset i = false ∧ s.sysLive = false)

theorem wordRefused_of_error {s : State} {w : Word32} {e : DecodeError} (h : decodeTxn w = .error e) :
    WordRefused s w := by
  simp [WordRefused, h]

theorem wordRefused_of_ok {s : State} {w : Word32} {i : Instr} (h : decodeTxn w = .ok i) :
    WordRefused s w ↔ wellFormed s.params i = false ∨ (isReset i = false ∧ s.sysLive = false) := by
  simp [WordRefused, h]

theorem wordRefused_of_ok_of_wellFormed {s : State} {w : Word32} {i : Instr} (h : decodeTxn w = .ok i)
    (hw : wellFormed s.params i = true) (hi : isReset i = false) : WordRefused s w ↔ s.sysLive = false := by
  simp [wordRefused_of_ok h, hw, hi]

/-- `WordRefused` is what the step does: it judges the oldest waiting word (R7, R113). -/
theorem step_refuses_iff {s : State} {t : Txn} {rest : List Txn} (h : s.inq = t :: rest) :
    Refuses (step s) ↔ WordRefused s t.op := by
  unfold step
  rw [h]
  cases hd : decodeTxn t.op with
  | error e => simp [hd, wordRefused_of_error hd]
  | ok i => simp [hd, wordRefused_of_ok hd, exec_refuses_iff]

/-- The words of a TAG other than ENQ: the decoder checks only that the bits from `lo` up, which R112 does not list, are 0. -/
theorem wordRefused_of_strayBits {s : State} {w : Word32} {lo n : Nat} {i : Instr}
    (h : decodeTxn w = if field w lo n ≠ 0#n then .error .strayBits else .ok i) (hlo : lo + n = 32) :
    WordRefused s w ↔ 2 ^ lo ≤ w.toNat ∨ wellFormed s.params i = false ∨ (isReset i = false ∧ s.sysLive = false) := by
  rw [← top_field_ne_zero hlo]
  split at h
  next hstray => exact iff_of_true (wordRefused_of_error h) (.inl hstray)
  next hclean => rw [wordRefused_of_ok h, or_iff_right hclean]

section
variable {s : State} {w : Word32}

theorem wordRefused_reset (h : w.toNat % 16 = 0) :
    WordRefused s w ↔ 2 ^ 15 ≤ w.toNat ∨ w.toNat / 16 % 256 = 0 ∨ s.params.maxInv < w.toNat / 16 % 256 ∨
      w.toNat / 2 ^ 13 % 4 = 3 := by
  rw [wordRefused_of_strayBits (by simp only [decodeTxn, field_tag h]; rfl) (by rfl)]
  simp [wellFormed, WellFormed.resetFields, isReset, field_toNat, field_eq_iff]
  omega

theorem wordRefused_rxByte (h : w.toNat % 16 = 1) : WordRefused s w ↔ 2 ^ 12 ≤ w.toNat ∨ s.sysLive = false := by
  rw [wordRefused_of_strayBits (by simp only [decodeTxn, field_tag h]; rfl) (by rfl)]
  simp [wellFormed, isReset]

theorem wordRefused_rxIdle (h : w.toNat % 16 = 2) : WordRefused s w ↔ 2 ^ 4 ≤ w.toNat ∨ s.sysLive = false := by
  rw [wordRefused_of_strayBits (by simp only [decodeTxn, field_tag h]; rfl) (by rfl)]
  simp [wellFormed, isReset]

theorem wordRefused_tick (h : w.toNat % 16 = 3) :
    WordRefused s w ↔ (2 ^ 9 ≤ w.toNat ∨ w.toNat / 16 % 32 = 0) ∨ s.sysLive = false := by
  rw [wordRefused_of_strayBits (by simp only [decodeTxn, field_tag h]; rfl) (by rfl)]
  simp [wellFormed, WellFormed.tickFields, isReset, field_eq_iff, or_assoc]

theorem wordRefused_setDebug (h : w.toNat % 16 = 5) :
    WordRefused s w ↔ (2 ^ 6 ≤ w.toNat ∨ w.toNat / 16 % 4 = 3) ∨ s.sysLive = false := by
  rw [wordRefused_of_strayBits (by simp only [decodeTxn, field_tag h]; rfl) (by rfl)]
  simp [wellFormed, WellFormed.setDebugFields, isReset, field_eq_iff, or_assoc]

theorem wordRefused_lineOpen (h : w.toNat % 16 = 6) : WordRefused s w ↔ 2 ^ 4 ≤ w.toNat ∨ s.sysLive = false := by
  rw [wordRefused_of_strayBits (by simp only [decodeTxn, field_tag h]; rfl) (by rfl)]
  simp [wellFormed, isReset]

theorem wordRefused_reserved (h : 7 ≤ w.toNat % 16) : WordRefused s w := by
  obtain ⟨k, hk⟩ := Nat.exists_eq_add_of_le' h
  have hd : decodeTxn w = .error .reservedTag := by simp only [decodeTxn, field_tag hk]
  exact wordRefused_of_error hd

/-- ENQ, along the branches of `decodeEnq`: stray bits, data of an invalid parameter (twice), AEF, a parameter on another
kind, and the three kinds that take none. -/
theorem wordRefused_enq (h : w.toNat % 16 = 4) :
    WordRefused s w ↔
      (2 ^ 24 ≤ w.toNat ∨ (w.toNat / 16 % 4 ≠ 3 ∧ (w.toNat / 64 % 2 = 1 ∨ w.toNat / 128 % 2 = 1)) ∨
          (w.toNat / 128 % 2 = 1 ∧ w.toNat / 64 % 2 = 0) ∨ (w.toNat / 64 % 2 = 0 ∧ w.toNat / 2 ^ 8 % 256 ≠ 0) ∨
          (w.toNat / 128 % 2 = 0 ∧ w.toNat / 2 ^ 16 % 256 ≠ 0)) ∨ s.sysLive = false := by
  have hd : decodeTxn w = decodeEnq w := by simp only [decodeTxn, field_tag h]
  simp only [decodeEnq, top_field_ne_zero (show 24 + 8 = 32 from rfl), field_eq_iff, ne_eq, Bool.or_eq_true,
    getLsbD_eq_true_iff, getLsbD_eq_false_iff, BitVec.toNat_ofNat] at hd
  split at hd
  next => exact iff_of_true (wordRefused_of_error hd) (by omega)
  split at hd
  next => exact iff_of_true (wordRefused_of_error hd) (by omega)
  split at hd
  next => exact iff_of_true (wordRefused_of_error hd) (by omega)
  split at hd
  next =>
    rw [wordRefused_of_ok hd]
    simp only [wellFormed, WellFormed.enqAefFields, isReset, true_and]
    refine or_congr_left ?_
    split <;> split <;> simp <;> omega
  split at hd
  next => exact iff_of_true (wordRefused_of_error hd) (by omega)
  split at hd
  next => exact (wordRefused_of_ok_of_wellFormed hd rfl rfl).trans (or_iff_right (by omega)).symm
  split at hd
  next => exact (wordRefused_of_ok_of_wellFormed hd rfl rfl).trans (or_iff_right (by omega)).symm
  next => exact (wordRefused_of_ok_of_wellFormed hd rfl rfl).trans (or_iff_right (by omega)).symm

end

/-- R113 clause by clause: the TAG selects the clause of `IllegalTxn`. -/
theorem wordRefused_iff_illegalTxn (s : State) (w : Word32) : WordRefused s w ↔ IllegalTxn s w.toNat := by
  have htag : w.toNat % 16 = 0 ∨ w.toNat % 16 = 1 ∨ w.toNat % 16 = 2 ∨ w.toNat % 16 = 3 ∨ w.toNat % 16 = 4 ∨
      w.toNat % 16 = 5 ∨ w.toNat % 16 = 6 ∨ 7 ≤ w.toNat % 16 := by omega
  rcases htag with h | h | h | h | h | h | h | h
  · simp [IllegalTxn, wordRefused_reset h, h]
  · simp [IllegalTxn, wordRefused_rxByte h, h]
  · simp [IllegalTxn, wordRefused_rxIdle h, h]
  · simp [IllegalTxn, wordRefused_tick h, h]
  · simp [IllegalTxn, wordRefused_enq h, h]
  · simp [IllegalTxn, wordRefused_setDebug h, h]
  · simp [IllegalTxn, wordRefused_lineOpen h, h]
  · simp [IllegalTxn, wordRefused_reserved h, h]

/-- Settles O5: the step refuses a word exactly when its decoding or its instruction's meaning does, and for each TAG that
is the clause of R113 on the word's number. -/
theorem stepRefusesExactlyIllegalTransactions : Obligations.StepRefusesExactlyIllegalTransactions := by
  intro s t rest _ hq
  exact (step_refuses_iff hq).trans (wordRefused_iff_illegalTxn s t.op)

end Sys2Proof.Machine
end

section
/-! PROOFS. The Frame Assembler position by position (spec/40_frame_assembler.md R140 to R147), RX_IDLE (R150) and LINE_OPEN
(R154); and that of all instructions but RESET only a sync mismatch touches the sync error count (R142). -/

namespace Sys2Proof.Machine

/-! ## The instructions of the assembler on a live block -/

/-- RX_BYTE re-arms the watchdog and ingests the byte (R140). -/
theorem exec_rxByte {b : Byte} {s : State} (hl : s.sysLive = true) : exec (.rxByte b) s = ingest b (rearm s) :=
  whenLive_of_live hl

/-- A discard with its log record: two records, and the assembler back at position 0 (R148). -/
theorem log_raiseDiscard (e : Event) (d : DiscardReason) (s : State) :
    log e (raiseDiscard d s) = { s with faPos := 0, outp := s.outp ++ [.frame (.discard d), logRecord e] } := by
  simp [log, emit, raiseDiscard]

/-- Settles O31: the word decodes to RX_IDLE, and on a live block its meaning is the log record alone. -/
theorem rxIdleLogsZeroRead : Obligations.RxIdleLogsZeroRead :=
  ⟨by decide, fun _ hl => whenLive_of_live hl⟩

/-- Settles O32: the word decodes to LINE_OPEN, and on a live block its meaning is the update of `fa_pos` alone. -/
theorem lineOpenAbandonsFrame : Obligations.LineOpenAbandonsFrame :=
  ⟨by decide, fun _ hl => whenLive_of_live hl⟩

/-! ## Position 3: the length byte -/

theorem lengthByte_accepted {b : Byte} {s : State} (h : b.toNat ≤ s.params.maxInv) :
    lengthByte b s = emit (.frame .continued) (storeByte 3 b s) :=
  if_neg (Nat.not_lt.2 h)

theorem lengthByte_rejected {b : Byte} {s : State} (h : s.params.maxInv < b.toNat) :
    lengthByte b s = log (.lenErr b) (raiseDiscard .badLen s) :=
  if_pos h

/-- Settles O21: the byte reaches the length rule, which decides by the bound of R143. -/
theorem lengthPosition : Obligations.LengthPosition := by
  intro b s hl hpos hsize
  have hexec : exec (.rxByte b) s = .next (lengthByte b (rearm s)) :=
    (exec_rxByte hl).trans (ingest_length (s := rearm s) hpos (Nat.lt_of_lt_of_le (by decide) hsize))
  constructor
  · intro hle
    rw [hexec, lengthByte_accepted (s := rearm s) hle]
    rfl
  · intro hgt
    rw [hexec, lengthByte_rejected (s := rearm s) hgt, log_raiseDiscard]
    rfl

/-! ## The full buffer -/

/-- A candidate of a safe state that lies past its LEN byte is short of its last byte, so a buffer for the longest frame has
room (R51 item 8, R143). -/
theorem State.AssemblerWf.faPos_lt_bufSize {s : State} (h : s.AssemblerWf) (hsize : s.params.maxInv + 8 ≤ s.params.bufSize) :
    s.faPos < s.params.bufSize := by
  obtain ⟨-, -, hbody⟩ := h
  rcases Nat.lt_or_ge s.faPos 4 with hp | hp
  · omega
  · obtain ⟨hlen, hlast⟩ := hbody hp
    omega

/-- Settles O22: the position test of R144 comes before those of the length and the body, and the invariant bounds the
position. -/
theorem overflowPosition : Obligations.OverflowPosition := by
  constructor
  · intro b s hl hpos hfull
    rw [exec_rxByte hl, ingest_overflow (s := rearm s) hpos (Nat.le_of_eq hfull.symm), overflowByte, log_raiseDiscard]
    rfl
  · intro s hinv hl hsize
    obtain ⟨-, hlive⟩ := hinv
    obtain ⟨-, -, hasm, -⟩ := hlive hl
    exact hasm.faPos_lt_bufSize hsize

/-! ## The body -/

/-- Settles O23: no test of R140 or R145 looks at the value of the byte. -/
theorem bodyPosition : Obligations.BodyPosition := by
  intro b len s hl hpos hroom hlen hbody
  rw [exec_rxByte hl, ingest_body (s := rearm s) hpos hroom hlen hbody]
  rfl

/-- The byte equals the checksum exactly when it is the sum of the bytes modulo 256 (R101). -/
theorem bufChecksum_eq_iff {len : Nat} {buf : List Byte} {b : Byte} :
    bufChecksum len buf = b ↔ b.toNat = (((buf.drop 3).take (len + 4)).map BitVec.toNat).sum % 256 := by
  rw [bufChecksum, checksum_eq_sum, ← BitVec.toNat_inj, BitVec.toNat_ofNat, eq_comm]

/-- The bytes of a complete frame are those received before, then the last one. -/
theorem take_set_last {α : Type} {l : List α} {n : Nat} (h : n < l.length) (x : α) :
    (l.set n x).take (n + 1) = l.take n ++ [x] := by
  rw [List.take_succ_eq_append_getElem (by simpa using h), List.take_set_of_le (Nat.le_refl n), List.getElem_set_self]

/-- Settles O24: the checksum over the buffer does not read the last byte's own place, so it is the sum over the bytes
received before, and the byte decides between `lastByte_good` and `lastByte_bad`. -/
theorem lastPosition : Obligations.LastPosition := by
  intro b len s hl hroom hbuf hlen hlast
  dsimp only
  have hexec : exec (.rxByte b) s = lastByte len.toNat (len.toNat + 7) b (rearm s) := by
    rw [exec_rxByte hl, ingest_last (s := rearm s) hroom hlen hlast, rearm_faPos, hlast]
  rw [hexec, ← bufChecksum_eq_iff, Ne, ← bufChecksum_eq_iff, hlast]
  constructor
  · intro hsum
    rw [lastByte_good (s := rearm s) hsum, ← take_set_last (by omega)]
    rfl
  · intro hsum
    rw [lastByte_bad (s := rearm s) hsum, rearm_faBuf, bufChecksum, checksum_eq_sum]
    rfl

/-! ## Positions 0 to 2: the sync bytes -/

theorem syncByte_match (p : Nat) (s : State) :
    syncByte Config.pSync p s = emit (.frame .continued) (storeByte p Config.pSync s) :=
  if_pos rfl

theorem syncByte_mismatch {b : Byte} (h : b ≠ Config.pSync) (p : Nat) (s : State) : syncByte b p s = syncMismatch b p s :=
  if_neg h

/-- The rate limit as a condition on the number (R142). -/
theorem syncErrLogged_iff (n : Word32) : syncErrLogged n = true ↔ n.toNat = 1 ∨ (n.toNat % 100 = 0 ∧ n.toNat ≠ 0) := by
  change _ ↔ n.toNat = 1 ∨ (n.toNat % Config.pRate = 0 ∧ n.toNat ≠ 0)
  simp [syncErrLogged, ← BitVec.toNat_inj]

theorem syncMismatch_eq (b : Byte) (p : Nat) (s : State) :
    syncMismatch b p s =
      { s with
        faSyncErrs := s.faSyncErrs + 1#32, faPos := 0,
        outp := s.outp ++ [.frame (.discard .badSync)] ++
          (if syncErrLogged (s.faSyncErrs + 1#32) then [logRecord (.syncErr (s.faSyncErrs + 1#32) b p)] else []) } := by
  by_cases hlog : syncErrLogged (s.faSyncErrs + 1#32) = true <;>
    simp [syncMismatch, hlog, raiseDiscard, log, emit]

/-! ## The sync error count

Every shared operation keeps the count; the assembler counts a sync mismatch and nothing else does but RESET. -/

theorem syncByte_faSyncErrs (b : Byte) (p : Nat) (s : State) :
    (syncByte b p s).faSyncErrs = if b = Config.pSync then s.faSyncErrs else s.faSyncErrs + 1#32 := by
  by_cases hb : b = Config.pSync
  · rw [hb, syncByte_match, if_pos rfl]
    rfl
  · rw [syncByte_mismatch hb, syncMismatch_eq, if_neg hb]

theorem lengthByte_faSyncErrs (b : Byte) (s : State) : (lengthByte b s).faSyncErrs = s.faSyncErrs := by
  rcases Nat.lt_or_ge s.params.maxInv b.toNat with h | h
  · rw [lengthByte_rejected h, log_faSyncErrs, raiseDiscard_faSyncErrs]
  · rw [lengthByte_accepted h, emit_faSyncErrs, storeByte_faSyncErrs]

theorem lastByte_faSyncErrs {len p : Nat} {b : Byte} {s t : State} (h : lastByte len p b s = .next t) :
    t.faSyncErrs = s.faSyncErrs := by
  simp only [lastByte] at h
  split at h
  · exact (dispatch_work h).1.faSyncErrs
  · cases h
    rfl

theorem bodyByte_faSyncErrs {b : Byte} {p : Nat} {s t : State} (h : bodyByte b p s = .next t) :
    t.faSyncErrs = s.faSyncErrs := by
  unfold bodyByte at h
  split at h
  · cases h
  split at h
  · cases h
    rfl
  split at h
  · exact lastByte_faSyncErrs h
  · cases h

/-- R140 on the count: it grows by a mismatch at positions 0 to 2 only (R142). -/
theorem ingest_faSyncErrs {b : Byte} {s t : State} (h : ingest b s = .next t) :
    t.faSyncErrs = s.faSyncErrs ∨ (b ≠ Config.pSync ∧ s.faPos < 3 ∧ t.faSyncErrs = s.faSyncErrs + 1#32) := by
  unfold ingest at h
  split at h
  next hpos =>
    cases h
    by_cases hb : b = Config.pSync
    · exact .inl (by rw [syncByte_faSyncErrs, if_pos hb])
    · exact .inr ⟨hb, hpos, by rw [syncByte_faSyncErrs, if_neg hb]⟩
  split at h
  next =>
    cases h
    exact .inl rfl
  split at h
  next =>
    cases h
    exact .inl (lengthByte_faSyncErrs b s)
  next => exact .inl (bodyByte_faSyncErrs h)

theorem enqueue_faSyncErrs (k : QKind) (p1 p2 : Option Byte) (s : State) :
    (enqueue k p1 p2 s).faSyncErrs = s.faSyncErrs := by
  unfold enqueue
  split <;> rfl

theorem sequenceStart_faSyncErrs {s t : State} (h : sequenceStart s = some t) : t.faSyncErrs = s.faSyncErrs := by
  unfold sequenceStart at h
  split at h
  · split at h
    next e s' hd =>
      obtain ⟨-, rfl⟩ := dequeue_eq_some.1 hd
      cases h
      rfl
    next => cases h
  · cases h
    rfl

theorem issue_faSyncErrs {dom : BitVec 5} {s t : State} (h : issue dom s = .next t) : t.faSyncErrs = s.faSyncErrs := by
  obtain ⟨-, dev, num, cmd, pl, rfl⟩ := issue_next h
  exact commit_faSyncErrs ..

theorem issueNext_faSyncErrs {dom : BitVec 5} {s t : State} (h : issueNext dom s = .next t) :
    t.faSyncErrs = s.faSyncErrs := by
  unfold issueNext at h
  split at h
  · split at h
    next s' hs => exact (issue_faSyncErrs h).trans (sequenceStart_faSyncErrs hs)
    next => cases h
  · exact issue_faSyncErrs h

theorem timeoutCheck_faSyncErrs {s t : State} (h : timeoutCheck s = .next t) : t.faSyncErrs = s.faSyncErrs := by
  unfold timeoutCheck at h
  split at h
  · exact (timeout_work h).1.faSyncErrs
  · cases h
    rfl

theorem execTick_faSyncErrs {dom : BitVec 5} {s t : State} (h : execTick dom s = .next t) :
    t.faSyncErrs = s.faSyncErrs := by
  obtain ⟨-, h⟩ := whenLive_next.1 h
  have hw : (watchdog s).faSyncErrs = s.faSyncErrs := by rw [watchdog_eq]
  split at h
  · cases h
  unfold sequencerTick at h
  split at h
  · exact (timeoutCheck_faSyncErrs h).trans hw
  · exact (issueNext_faSyncErrs h).trans hw

theorem receive_faSyncErrs {dev num cmd : Byte} {pl : List Byte} {s t : State} (h : receive dev num cmd pl s = .next t) :
    t.faSyncErrs = s.faSyncErrs := by
  obtain ⟨-, h⟩ := whenLive_next.1 h
  split at h
  · exact (dispatch_work h).1.faSyncErrs
  · cases h

/-- An instruction that is one update of a live block keeps the count if the update does. -/
theorem whenLive_next_faSyncErrs {s t u : State} (h : whenLive s (.next u) = .next t) (hu : u.faSyncErrs = s.faSyncErrs) :
    t.faSyncErrs = s.faSyncErrs := by
  obtain ⟨-, h⟩ := whenLive_next.1 h
  cases h
  exact hu

/-- The count's frame, instruction by instruction (R142). -/
theorem exec_faSyncErrs {i : Instr} {s t : State} (h : exec i s = .next t) (hi : isReset i = false) :
    t.faSyncErrs = s.faSyncErrs ∨
      ∃ b, i = .rxByte b ∧ b ≠ Config.pSync ∧ s.faPos < 3 ∧ t.faSyncErrs = s.faSyncErrs + 1#32 := by
  cases i with
  | reset => cases hi
  | rxByte b =>
    obtain ⟨-, h⟩ := whenLive_next.1 h
    exact (ingest_faSyncErrs h).imp_right fun hcount => ⟨b, rfl, hcount⟩
  | tick => exact .inl (execTick_faSyncErrs h)
  | enqAef =>
    obtain ⟨-, h⟩ := whenLive_next.1 h
    split at h
    · cases h
    · cases h
      exact .inl (enqueue_faSyncErrs ..)
  | setDebug =>
    obtain ⟨-, h⟩ := whenLive_next.1 h
    split at h
    · cases h
    · cases h
      exact .inl rfl
  | enqGv | enqGdt | enqGai => exact .inl (whenLive_next_faSyncErrs h (enqueue_faSyncErrs ..))
  | rxIdle | lineOpen | txGetversion | txGetdevtype | txGetactive | txGetval0 | txGetval1 | txGetval2 | txGetval3
  | txGetval4 | txGetval5 | txGetval6 | txGetval7 | txGetval8 | txAef => exact .inl (whenLive_next_faSyncErrs h rfl)
  | rxVersion | rxDevtype | rxActive | rxVal0 | rxVal1 | rxVal2 | rxVal3 | rxVal4 | rxVal5 | rxVal6 | rxVal7 | rxVal8
  | rxAef | rxProtocolError | rxErrorState => exact .inl (receive_faSyncErrs h)

/-- Settles O20: at positions 0 to 2 the byte either matches or is `syncMismatch`'s, and `exec_faSyncErrs` is the frame of
the count. -/
theorem syncPositions : Obligations.SyncPositions := by
  constructor
  · intro b s hl hpos
    have hexec : exec (.rxByte b) s = .next (syncByte b s.faPos (rearm s)) :=
      (exec_rxByte hl).trans (ingest_sync (s := rearm s) hpos)
    constructor
    · rintro rfl
      rw [hexec]
      exact congrArg _ (syncByte_match s.faPos (rearm s))
    · intro hb
      rw [hexec, syncByte_mismatch hb, syncMismatch_eq]
      simp only [syncErrLogged_iff]
      rfl
  · intro i s t h hi
    refine exec_faSyncErrs h ?_
    cases i with
    | reset ic a d => exact absurd rfl (hi ic a d)
    | _ => rfl

end Sys2Proof.Machine
end

section
/-! PROOFS. The Value Decoder (spec/41_value_decoder.md): what its operands are worth as numbers (R171, R173, R174), which
exponent it uses (R175), and what DECODE answers below, above and inside the exponent range (R176 to R178). -/

namespace Sys2Proof.Machine

/-! ## Operands and the power-of-ten table -/

theorem magnitude_toNat (hi lo : Byte) : (magnitude hi lo).toNat = hi.toNat * 256 + lo.toNat := by
  rw [magnitude, BitVec.toNat_append, ← Nat.shiftLeft_add_eq_or_of_lt lo.isLt, Nat.shiftLeft_eq]

theorem magnitude_eq_zero_iff (hi lo : Byte) : magnitude hi lo = 0#16 ↔ hi.toNat * 256 + lo.toNat = 0 := by
  rw [← BitVec.toNat_inj, magnitude_toNat]
  rfl

theorem sext8_eq (b : Byte) : sext8 b = if b.toNat ≤ 0x7F then (b.toNat : Int) else (b.toNat : Int) - 256 := by
  rw [sext8, BitVec.toInt_eq_toNat_cond]
  split <;> split <;> omega

theorem lut_eq_powers : lut = (List.range 14).map (10 ^ ·) := by decide

theorem lut_getD {n : Nat} (h : n < 14) : lut.getD n 0 = 10 ^ n := by
  simp [lut_eq_powers, h]

/-- The largest product fits in the 64 bits of a decoded value (R170). -/
theorem magnitude_mul_pow_lt (m : BitVec 16) {n : Nat} (h : n < 14) : m.toNat * 10 ^ n < 2 ^ 64 :=
  calc m.toNat * 10 ^ n ≤ 2 ^ 16 * 10 ^ 13 :=
        Nat.mul_le_mul m.isLt.le (Nat.pow_le_pow_right (by decide) (Nat.le_of_lt_succ h))
    _ < 2 ^ 64 := by decide

/-! ## The exponent used -/

theorem baseExp_length {p : Params} (hp : p.Wf) : p.baseExp.length = 9 := by
  obtain ⟨-, -, -, -, -, hlen, -⟩ := hp
  exact hlen

theorem baseExp_range {p : Params} (hp : p.Wf) {e : Int} (he : e ∈ p.baseExp) : -3 ≤ e ∧ e ≤ 10 := by
  obtain ⟨-, -, -, -, -, -, hrange, -⟩ := hp
  exact hrange e he

theorem decodeExponent_of_not_sentinel {p : Params} {eb : Byte} {idx : Nat} (h : ¬ (eb = 11#8 ∧ idx < 9)) :
    decodeExponent p eb idx = sext8 eb :=
  if_neg h

theorem decodeExponent_sentinel {p : Params} {idx : Nat} (hp : p.Wf) (hidx : idx < 9) :
    p.baseExp[idx]? = some (decodeExponent p 11#8 idx) := by
  have hlen : idx < p.baseExp.length := baseExp_length hp ▸ hidx
  have hexp : decodeExponent p 11#8 idx = p.baseExp.getD idx 0 := if_pos ⟨rfl, hidx⟩
  rw [hexp, List.getD_eq_getElem _ _ hlen, List.getElem?_eq_getElem hlen]

/-- A substituted exponent is never out of range (R175). -/
theorem decodeExponent_sentinel_range {p : Params} {idx : Nat} (hp : p.Wf) (hidx : idx < 9) :
    -3 ≤ decodeExponent p 11#8 idx ∧ decodeExponent p 11#8 idx ≤ 10 :=
  baseExp_range hp (List.mem_of_getElem? (decodeExponent_sentinel hp hidx))

/-- Settles O35: a sentinel byte reads the baseline table, which R9 keeps in range; any other byte is sign-extended. -/
theorem exponentSubstitution : Obligations.ExponentSubstitution := by
  intro p eb idx hp
  constructor
  · rintro rfl hidx
    exact ⟨decodeExponent_sentinel hp hidx, decodeExponent_sentinel_range hp hidx⟩
  · intro hns
    rw [decodeExponent_of_not_sentinel hns, sext8_eq]

/-- The raw bytes of an underflow (R177). -/
theorem decodeExponent_lt_iff {p : Params} {eb : Byte} {idx : Nat} (hp : p.Wf) :
    decodeExponent p eb idx < -3 ↔ 0x80 ≤ eb.toNat ∧ eb.toNat ≤ 0xFC := by
  by_cases hs : eb = 11#8 ∧ idx < 9
  · obtain ⟨rfl, hidx⟩ := hs
    have hrange := decodeExponent_sentinel_range hp hidx
    simp only [BitVec.toNat_ofNat]
    omega
  · rw [decodeExponent_of_not_sentinel hs, sext8_eq]
    split <;> omega

/-- The raw bytes of an overflow (R178). -/
theorem lt_decodeExponent_iff {p : Params} {eb : Byte} {idx : Nat} (hp : p.Wf) :
    10 < decodeExponent p eb idx ↔ 0x0B ≤ eb.toNat ∧ eb.toNat ≤ 0x7F ∧ ¬ (eb = 11#8 ∧ idx < 9) := by
  by_cases hs : eb = 11#8 ∧ idx < 9
  · obtain ⟨rfl, hidx⟩ := hs
    have hrange := decodeExponent_sentinel_range hp hidx
    exact iff_of_false (Int.not_lt.2 hrange.2) fun ⟨_, _, hns⟩ => hns ⟨rfl, hidx⟩
  · rw [decodeExponent_of_not_sentinel hs, sext8_eq]
    simp only [hs, not_false_eq_true, and_true]
    have hb := eb.isLt
    split <;> omega

/-! ## DECODE -/

section
variable {p : Params} {level : BitVec 2} {hi lo eb : Byte} {idx : Nat}

/-- DECODE below the exponent range (R177). -/
theorem decodeValue_below (h : decodeExponent p eb idx < -3) :
    decodeValue p level hi lo eb idx =
      Decoded.mk 0#64 (verbose level (.decUnderflow (magnitude hi lo) (decodeExponent p eb idx) idx)) :=
  if_pos h

/-- DECODE above the exponent range (R178). -/
theorem decodeValue_above (h : 10 < decodeExponent p eb idx) :
    decodeValue p level hi lo eb idx =
      Decoded.mk 0#64
        (if magnitude hi lo ≠ 0#16 then verbose level (.decOverflow (magnitude hi lo) (decodeExponent p eb idx) idx)
        else none) :=
  (if_neg (by simp only [Config.pExpMin]; omega)).trans (if_pos h)

/-- DECODE inside the exponent range, where the table entry is the power of ten itself (R176). -/
theorem decodeValue_inRange (hmin : -3 ≤ decodeExponent p eb idx) (hmax : decodeExponent p eb idx ≤ 10) :
    decodeValue p level hi lo eb idx =
      Decoded.mk (BitVec.ofNat 64 ((magnitude hi lo).toNat * 10 ^ (decodeExponent p eb idx + 3).toNat)) none := by
  rw [← lut_getD (by omega)]
  exact (if_neg (Int.not_lt.2 hmin)).trans (if_neg (Int.not_lt.2 hmax))

end

/-- Settles O33: the table entry is the power of ten, and the 64 bits hold the whole product. -/
theorem decodeExactInRange : Obligations.DecodeExactInRange := by
  intro p level hi lo eb idx hmin hmax
  rw [decodeValue_inRange hmin hmax]
  have hfits := magnitude_mul_pow_lt (magnitude hi lo) (n := (decodeExponent p eb idx + 3).toNat) (by omega)
  exact ⟨by rw [BitVec.toNat_ofNat, Nat.mod_eq_of_lt hfits, magnitude_toNat], rfl⟩

/-- Settles O34: DECODE's two branches outside the range, and the raw bytes that lead to each. -/
theorem decodeOutOfRange : Obligations.DecodeOutOfRange := by
  intro p level hi lo eb idx
  refine ⟨fun hbelow => ?_, fun habove => ?_, fun hp => ⟨decodeExponent_lt_iff hp, lt_decodeExponent_iff hp⟩⟩
  · rw [decodeValue_below hbelow]
    exact ⟨rfl, rfl⟩
  · rw [decodeValue_above habove]
    refine ⟨rfl, ?_⟩
    simp only [ne_eq, magnitude_eq_zero_iff, ite_and]
    rfl

end Sys2Proof.Machine
end

section
/-! PROOFS. The Sanity Filter (spec/42_sanity_filter.md): which rule judges a candidate (R190, R191), what each slot's rule
tests (R194 to R203), and what the AC voltage filter answers (R199). -/

namespace Sys2Proof.Machine

section
variable {x : FilterArgs}

/-! ## Which rule judges -/

/-- The override (R190). -/
theorem filterValue_override (hcnt : 2 < x.cnt.toNat) : filterValue x = filtOverride x :=
  if_pos hcnt

/-- Below the override the slot rule judges (R191). -/
theorem filterValue_slot (hcnt : x.cnt.toNat ≤ 2) : filterValue x = filtSlot x :=
  if_neg (Nat.not_lt.2 hcnt)

/-- Below the override the 2-bit counter goes up without wrapping. -/
theorem rejections_succ_toNat {c : BitVec 2} (hc : c.toNat ≤ 2) : (c + 1#2).toNat = c.toNat + 1 :=
  BitVec.toNat_add_of_lt (Nat.add_lt_of_lt_sub (Nat.lt_succ_of_le hc))

/-! ## The rule of each slot -/

theorem filtSlot_power (h : x.idx = 0) : filtSlot x = bounded 10000000 x := by
  simp only [filtSlot, h, filt0]

theorem filtSlot_energy (h : x.idx = 1 ∨ x.idx = 2 ∨ x.idx = 3) : filtSlot x = energyBounded x := by
  rcases h with h | h | h <;> simp only [filtSlot, h, filt1, filt2, filt3]

/-- The currents and the AC frequency (R198, R200, R201). -/
theorem filtSlot_current (h : x.idx = 4 ∨ x.idx = 6 ∨ x.idx = 7) : filtSlot x = bounded 100000 x := by
  rcases h with h | h | h <;> simp only [filtSlot, h, filt4, filt6, filt7]

theorem filtSlot_acVoltage (h : x.idx = 5) : filtSlot x = filt5 x := by
  simp only [filtSlot, h]

theorem filtSlot_dcVoltage (h : x.idx = 8) : filtSlot x = bounded 600000 x := by
  simp only [filtSlot, h, filt8]

theorem filtSlot_badIndex (h : 9 ≤ x.idx) : filtSlot x = filtBadIndex x := by
  obtain ⟨n, hn⟩ := Nat.exists_eq_add_of_le' h
  simp only [filtSlot, hn]

/-! ## The slots with a bound -/

/-- The candidate is above the bound of its slot (R192, R194 to R198, R200 to R202); slot 5 is `filt5`. -/
abbrev AboveBound (x : FilterArgs) : Prop :=
  (x.idx = 0 ∧ 10000000 < x.cand.toNat) ∨
    ((x.idx = 1 ∨ x.idx = 2 ∨ x.idx = 3) ∧ 0 < x.prev.toNat ∧ x.prev.toNat + 10000000 < x.cand.toNat) ∨
    ((x.idx = 4 ∨ x.idx = 6 ∨ x.idx = 7) ∧ 100000 < x.cand.toNat) ∨
    (x.idx = 8 ∧ 600000 < x.cand.toNat)

theorem filtSlot_eq_ite_aboveBound (hidx : x.idx < 9) (h5 : x.idx ≠ 5) :
    filtSlot x = if AboveBound x then reject x else accept x := by
  have hslots : x.idx = 0 ∨ (x.idx = 1 ∨ x.idx = 2 ∨ x.idx = 3) ∨ (x.idx = 4 ∨ x.idx = 6 ∨ x.idx = 7) ∨ x.idx = 8 := by
    omega
  rcases hslots with h | h | h | h
  · rw [filtSlot_power h]
    exact if_congr (by omega) rfl rfl
  · rw [filtSlot_energy h]
    exact if_congr (by omega) rfl rfl
  · rw [filtSlot_current h]
    exact if_congr (by omega) rfl rfl
  · rw [filtSlot_dcVoltage h]
    exact if_congr (by omega) rfl rfl

/-! ## The AC voltage slot -/

/-- The brownout of R199: a fall below 200 V while the DC side still has voltage. -/
abbrev Brownout (x : FilterArgs) : Prop :=
  200000 < x.prev.toNat ∧ x.cand.toNat < 200000 ∧ 0 < x.dcv.toNat

theorem filt5_brownout (h : Brownout x) :
    filt5 x = Filtered.mk x.cand (x.cnt + 1#2) (some (.filtShutdown x.a 5 x.cand x.prev x.cnt)) :=
  if_pos h

theorem filt5_above (h : ¬ Brownout x) (habove : 550000 < x.cand.toNat) : filt5 x = reject x :=
  (if_neg h).trans (if_pos habove)

/-- Recovery and plain acceptance both take the candidate and clear the counter; they differ in the log record only. -/
theorem filt5_within (h : ¬ Brownout x) (hwithin : x.cand.toNat ≤ 550000) :
    filt5 x = Filtered.mk x.cand 0#2
      (if x.prev.toNat < 200000 ∧ 200000 < x.cand.toNat then some (.filtRecovery x.a 5 x.cand x.prev x.cnt)
      else none) := by
  rw [apply_ite (Filtered.mk x.cand 0#2)]
  exact (if_neg h).trans (if_neg (Nat.not_lt.2 hwithin))

end

/-! ## What FILTER answers -/

/-- Settles O38: the override is FILTER's first test, and the slot rule's last case takes every index above 8. -/
theorem filterOverride : Obligations.FilterOverride := by
  intro x
  refine ⟨filterValue_override, fun hidx hcnt => ?_⟩
  rw [filterValue_slot hcnt, filtSlot_badIndex hidx]
  exact ⟨rfl, rejections_succ_toNat hcnt, rfl⟩

/-- Settles O36: below the override the slot rule rejects or accepts by `AboveBound` alone. -/
theorem filterBounds : Obligations.FilterBounds := by
  intro x hcnt hidx h5 bad
  rw [filterValue_slot hcnt, filtSlot_eq_ite_aboveBound hidx h5]
  refine ⟨fun habove => ?_, fun hwithin => ?_⟩
  · rw [if_pos habove]
    exact ⟨rfl, rejections_succ_toNat hcnt, rfl⟩
  · rw [if_neg hwithin]
    exact ⟨rfl, rfl, rfl⟩

/-- Settles O37: the branches of slot 5's rule in the order of R199. -/
theorem filterAcVoltage : Obligations.FilterAcVoltage := by
  intro x hcnt h5 brownout
  rw [filterValue_slot hcnt, filtSlot_acVoltage h5]
  refine ⟨fun hb => ?_, fun hb habove => ?_, fun hb hwithin => ?_⟩
  · rw [filt5_brownout hb]
    exact ⟨rfl, rejections_succ_toNat hcnt, rfl⟩
  · rw [filt5_above hb habove, ← h5]
    exact ⟨rfl, rejections_succ_toNat hcnt, rfl⟩
  · rw [filt5_within hb hwithin]
    exact ⟨rfl, rfl, rfl⟩

end Sys2Proof.Machine
end

section
/-! PROOFS. The requests (spec/43_command_sequencer.md R230 to R242): the bytes of a built frame written out, and the commit
of R224. -/

namespace Sys2Proof.Machine

/-! ## The bytes of a request -/

/-- A request without payload is eight bytes (R100, R101). -/
theorem frame_nil (dev num cmd : Byte) :
    frame dev num cmd [] = [0x80#8, 0x80#8, 0x80#8, 0#8, dev, num, cmd, dev + num + cmd] := by
  have hsum : checksum (frameBody dev num cmd []) = dev + num + cmd := by
    simp [frameBody, checksum_cons, BitVec.add_assoc]
  rw [frame, hsum]
  rfl

/-- A request with two payload bytes is ten bytes (R102). -/
theorem frame_pair (dev num cmd p1 p2 : Byte) :
    frame dev num cmd [p1, p2] =
      [0x80#8, 0x80#8, 0x80#8, 2#8, dev, num, cmd, p1, p2, 2#8 + dev + num + cmd + p1 + p2] := by
  have hsum : checksum (frameBody dev num cmd [p1, p2]) = 2#8 + dev + num + cmd + p1 + p2 := by
    simp [frameBody, checksum_cons, BitVec.add_assoc]
  rw [frame, hsum]
  rfl

/-- A live block commits a request: its frame, here byte by byte, and the outstanding request (R224). -/
theorem whenLive_commit {dev num cmd : Byte} {pl bytes : List Byte} {s : State} (hl : s.sysLive = true)
    (hbytes : frame dev num cmd pl = bytes) :
    whenLive s (.next (commit dev num cmd pl s)) =
      .next { s with
        outp := s.outp ++ [.tx bytes], sqAwaiting := true, sqSendTime := s.now, sqOutCmd := cmd, sqOutNum := num } := by
  rw [whenLive_of_live hl, commit, hbytes]
  rfl

/-! ## The thirteen requests -/

/-- A request without a target goes to DEV 0, NUM 0, so its checksum is its CMD byte (R230, R232). -/
theorem frame_broadcast (cmd : Byte) : frame 0#8 0#8 cmd [] = [0x80#8, 0x80#8, 0x80#8, 0#8, 0#8, 0#8, cmd, cmd] := by
  rw [frame_nil, BitVec.add_zero, BitVec.zero_add]

/-- Settles O45: on a live block both rows are the commit of a frame to DEV 0, NUM 0. -/
theorem broadcastRequests : Obligations.BroadcastRequests := by
  intro s hl
  exact ⟨whenLive_commit hl (frame_broadcast s.params.cmdGv), whenLive_commit hl (frame_broadcast s.params.cmdGai)⟩

/-- Settles O46: on a live block the row is the commit of its frame. -/
theorem deviceTypeRequest : Obligations.DeviceTypeRequest := by
  intro n s hl
  exact whenLive_commit hl (frame_nil s.params.devInv n s.params.cmdGdt)

/-- Settles O47: the nine rows share the form `requestValue`, which is the commit of the slot's frame. -/
theorem valueRequests : Obligations.ValueRequests := by
  intro k n s hl hk
  rw [exec_txGetval k hk]
  exact whenLive_commit hl (frame_nil s.params.devInv n (s.params.cmdVal k))

/-- Settles O48: on a live block the row is the commit of its ten bytes. -/
theorem errorForwardingRequest : Obligations.ErrorForwardingRequest := by
  intro p1 p2 s hl
  have hbytes := frame_pair 0#8 0#8 s.params.cmdAef p1 p2
  simp only [BitVec.add_zero] at hbytes
  exact whenLive_commit hl hbytes

end Sys2Proof.Machine
end

section
/-! PROOFS. The end of an exchange (spec/43_command_sequencer.md R270 to R273), command by command; under the invariant a sweep
ends at a known inverter, so a failure is `failedExchange` whatever the sequence; and the TICK that times out. -/

namespace Sys2Proof.Machine

section
variable {ok : Bool} {s : State}

/-! ## The end of an exchange, command by command -/

theorem stepDone_gv (hc : s.sqCur = .gv) : stepDone ok s = .next (completeSequence s) := by
  simp only [stepDone, hc]

theorem stepDone_gdt (hc : s.sqCur = .gdt) : stepDone ok s = .next (completeSequence s) := by
  simp only [stepDone, hc]

theorem stepDone_gai (hc : s.sqCur = .gai) : stepDone ok s = .next (discoveryDone ok s) := by
  simp only [stepDone, hc]

theorem stepDone_aef (hc : s.sqCur = .aef) : stepDone ok s = .next (aefDone ok s) := by
  simp only [stepDone, hc]

/-- Before slot 8 the sweep goes to its next slot (R271). -/
theorem stepDone_nextSlot (hc : s.sqCur = .gval) (h8 : s.sqValIdx ≠ 8) :
    stepDone ok s = .next { s with sqValIdx := s.sqValIdx + 1 } := by
  have h9 : ¬ s.sqValIdx + 1 = Config.pNSlots := fun h => h8 (Nat.succ.inj h)
  simp only [stepDone, hc, sweepStep, if_neg h9]

/-- After slot 8 the sweep reports the inverter under the cursor and moves to the next one (R271). -/
theorem stepDone_lastSlot {a : Byte} {values : List (BitVec 64)} (hc : s.sqCur = .gval) (h8 : s.sqValIdx = 8)
    (ht : valTarget s = some a) (hv : valRow s a = some values) (hn : 0 < s.sqNActive) :
    stepDone ok s =
      .next { s with
        sqValIdx := 9, sqInvCursor := (s.sqInvCursor + 1) % s.sqNActive, sqIdleNext := .gai,
        sqSeqComplete := true, outp := s.outp ++ [.report a values] } := by
  have h9 : s.sqValIdx + 1 = Config.pNSlots := congrArg (· + 1) h8
  simp only [stepDone, hc, sweepStep, h9]
  exact sweepEnd_next.2 ⟨a, values, ht, hv, Nat.ne_of_gt hn, rfl⟩

/-! ## Under the invariant -/

/-- A sweep in progress stands at a polled slot, and an inverter is known (R51 items 2 and 9). -/
theorem State.Inv.sweepPosition (h : s.Inv) (hl : s.sysLive = true) (hc : s.sqCur = .gval)
    (hs : s.sqSeqComplete = false) : s.sqValIdx < 9 ∧ 0 < s.sqNActive := by
  obtain ⟨-, hlive⟩ := h
  obtain ⟨-, -, -, -, ⟨-, -, -, hsweep, -⟩, -⟩ := hlive hl
  exact hsweep hc hs

/-- An outstanding request belongs to a sequence in progress (R51 item 7). -/
theorem State.Inv.sqSeqComplete_of_awaiting (h : s.Inv) (hl : s.sysLive = true) (hw : s.sqAwaiting = true) :
    s.sqSeqComplete = false := by
  obtain ⟨-, hlive⟩ := h
  obtain ⟨-, -, -, -, ⟨-, -, hprogress, -⟩, -⟩ := hlive hl
  exact hprogress hw

/-- The inverter under the cursor has its nine values in the table (R45, R51 item 4). -/
theorem State.Inv.cursorRow (h : s.Inv) (hl : s.sysLive = true) (hn : 0 < s.sqNActive) :
    ∃ values, valRow s (cursorAddr s) = some values ∧ values.length = 9 := by
  obtain ⟨-, hmin, hmax, -⟩ := h.valTarget hl hn
  exact valRow_isSome (h.2 hl).1 hmin hmax

/-- The inverter under the cursor is one of the discovered ones (R42). -/
theorem State.Inv.activeList_cursor (h : s.Inv) (hl : s.sysLive = true) (hn : 0 < s.sqNActive) :
    (activeList s)[s.sqInvCursor]? = some (cursorAddr s) := by
  obtain ⟨htarget, -, -, hcursor⟩ := h.valTarget hl hn
  rw [activeList, List.getElem?_take_of_lt hcursor]
  exact htarget

/-- The end of an exchange in failure, its records already emitted, is `failedExchange` (R259, R270 to R273). -/
theorem State.Inv.stepDone_failed (h : s.Inv) (hl : s.sysLive = true) (hs : s.sqSeqComplete = false)
    (recs : List Record) :
    Machine.stepDone false { s with sqAwaiting := false, outp := s.outp ++ recs } = .next (failedExchange recs s) := by
  unfold failedExchange
  cases hc : s.sqCur with
  | gv => exact stepDone_gv rfl
  | gdt => exact stepDone_gdt rfl
  | gai => exact stepDone_gai rfl
  | aef => exact stepDone_aef rfl
  | gval =>
    obtain ⟨-, hn⟩ := h.sweepPosition hl hc hs
    by_cases h8 : s.sqValIdx = 8
    · obtain ⟨htarget, -⟩ := h.valTarget hl hn
      obtain ⟨values, hvalues, -⟩ := h.cursorRow hl hn
      simp only [if_pos h8, reportOf, hvalues]
      exact stepDone_lastSlot rfl h8 htarget hvalues hn
    · simp only [if_neg h8]
      exact stepDone_nextSlot rfl h8

end

/-- Settles O57: the step looks at the slot alone, and the invariant gives the inverter under the cursor and its row. -/
theorem sweepStepReportsAtEnd : Obligations.SweepStepReportsAtEnd := by
  intro ok s hinv hl hc hs
  refine ⟨stepDone_nextSlot hc, fun h8 => ?_⟩
  obtain ⟨-, hn⟩ := hinv.sweepPosition hl hc hs
  obtain ⟨htarget, -⟩ := hinv.valTarget hl hn
  obtain ⟨values, hvalues, hlen⟩ := hinv.cursorRow hl hn
  refine ⟨cursorAddr s, values, hinv.activeList_cursor hl hn, hlen, fun k _ => ?_,
    stepDone_lastSlot hc h8 htarget hvalues hn⟩
  rw [valAt, hvalues, Option.bind_some]

/-! ## The reply timeout -/

/-- A TICK with a request outstanding checks its deadline after the watchdog (R220). -/
theorem exec_tick_awaiting {dom : BitVec 5} {s : State} (hl : s.sysLive = true) (hd : dom ≠ 0#5)
    (hw : s.sqAwaiting = true) : exec (.tick dom) s = timeoutCheck (watchdog s) := by
  have hw' : (watchdog s).sqAwaiting = true := by rw [watchdog_eq, hw]
  calc exec (.tick dom) s = sequencerTick dom (watchdog s) := (whenLive_of_live hl).trans (if_neg hd)
    _ = timeoutCheck (watchdog s) := if_pos hw'

/-- At or after the deadline the exchange has failed (R221, R273). -/
theorem timeoutCheck_expired {s : State} (h : 2000 ≤ (s.now - s.sqSendTime).toNat) : timeoutCheck s = timeout s :=
  if_pos h

/-- Settles O44: after the watchdog the TICK finds the deadline reached, and the timeout ends the exchange in failure behind
its own record. -/
theorem tickTimesOut : Obligations.TickTimesOut := by
  intro dom s hinv hl hd hw hexpired
  have hs := hinv.sqSeqComplete_of_awaiting hl hw
  have hexpired' : 2000 ≤ ((watchdog s).now - (watchdog s).sqSendTime).toNat := by rwa [watchdog_eq]
  calc exec (.tick dom) s
    _ = timeout (watchdog s) := (exec_tick_awaiting hl hd hw).trans (timeoutCheck_expired hexpired')
    _ = stepDone false
          { s with
            wdReported := s.wdReported || !(noDataRecords s).isEmpty, sqAwaiting := false,
            outp := s.outp ++ (noDataRecords s ++ [.log .warn 0x30#8 (.replyTimeout s.sqOutCmd s.sqOutNum)]) } := by
      rw [watchdog_eq, ← List.append_assoc]
      rfl
    _ = _ :=
      State.Inv.stepDone_failed (s := { s with wdReported := s.wdReported || !(noDataRecords s).isEmpty }) hinv hl hs _

end Sys2Proof.Machine
end

section
/-! PROOFS. The replies (spec/43_command_sequencer.md R250 to R264): a validated frame that answers nothing, then the replies
that end a sequence, the discovery's stage by stage. -/

namespace Sys2Proof.Machine

/-! ## A validated frame arrives -/

section
variable {dev num cmd : Byte} {pl : List Byte} {s : State}

/-- A frame of a length that the Frame Assembler validates is dispatched (R250). -/
theorem receive_eq_dispatch (hl : s.sysLive = true) (hpl : WellFormed.inboundPayload s.params pl = true) :
    receive dev num cmd pl s = dispatch dev num cmd pl s :=
  (whenLive_of_live hl).trans (if_pos hpl)

/-- A reply that answers the outstanding request is handled by the command of the current sequence (R250). -/
theorem receive_answer (hl : s.sysLive = true) (hpl : WellFormed.inboundPayload s.params pl = true)
    (hcmd : cmd ≠ s.params.cmdPerr ∧ cmd ≠ s.params.cmdEstate) (ha : Answers s num cmd) :
    receive dev num cmd pl s = matchedReply num cmd pl s := by
  rw [receive_eq_dispatch hl hpl, dispatch_matched hcmd.1 hcmd.2 (matchesRequest_iff.2 ha)]

end

/-! ## Unexpected frames -/

/-- The instruction of a frame's class is the arrival of that frame (R104, R108, R250). -/
theorem exec_of_classifyInbound {s : State} {f : FrameFields} {i : Instr} (h : classifyInbound s.params f = .ok i) :
    exec i s = receive f.dev f.num f.cmd f.pl s := by
  unfold classifyInbound at h
  split_ifs at h
  case neg =>
    split at h
    next k hslot =>
      obtain ⟨hk, hcmd⟩ := valSlot_lt hslot
      cases h
      rw [exec_rxVal k hk, ← hcmd]
    next => cases h
  all_goals
    rename_i hcmd
    cases h
    rw [hcmd]
    rfl

/-- What decodes as an inbound frame has a length that the Frame Assembler validates, and a class (R109, R144). -/
theorem decodeInbound_eq_ok {p : Params} {bytes : List Byte} {f : FrameFields} {i : Instr}
    (hf : parseFrame bytes = .ok f) (h : decodeInbound p bytes = .ok i) :
    WellFormed.inboundPayload p f.pl = true ∧ classifyInbound p f = .ok i := by
  simp only [decodeInbound, hf] at h
  split at h
  · cases h
  split at h
  · cases h
  next hmax hsize =>
    have hpl : f.pl.length ≤ p.maxInv ∧ f.pl.length + 8 ≤ p.bufSize := ⟨Nat.le_of_not_lt hmax, Nat.le_of_not_lt hsize⟩
    exact ⟨by simpa [WellFormed.inboundPayload] using hpl, h⟩

/-- Settles O49: the dispatch has no case left but UNEXPECTED_PACKET, and the instruction of the frame's class is that
dispatch. -/
theorem unexpectedFramesChangeNothing : Obligations.UnexpectedFramesChangeNothing := by
  intro s f hperr hestate hna
  have hdispatch : dispatch f.dev f.num f.cmd f.pl s = .next (unexpected f.dev f.num f.cmd f.pl s) :=
    dispatch_unexpected hperr hestate (by rwa [← Bool.not_eq_true, matchesRequest_iff])
  refine ⟨hdispatch, fun bytes i hl hf hi => ?_⟩
  obtain ⟨hpl, hclass⟩ := decodeInbound_eq_ok hf hi
  rw [exec_of_classifyInbound hclass, receive_eq_dispatch hl hpl]
  exact hdispatch

/-! ## The replies that end a sequence of one exchange -/

theorem matchedReply_gv {num cmd : Byte} {pl : List Byte} {s : State} (hc : s.sqCur = .gv) :
    matchedReply num cmd pl s = versionReply cmd pl s := by
  simp only [matchedReply, hc]

theorem matchedReply_gdt {num cmd : Byte} {pl : List Byte} {s : State} (hc : s.sqCur = .gdt) :
    matchedReply num cmd pl s = devtypeReply num cmd pl s := by
  simp only [matchedReply, hc]

theorem matchedReply_gai {num cmd : Byte} {pl : List Byte} {s : State} (hc : s.sqCur = .gai) :
    matchedReply num cmd pl s = activeReply pl s := by
  simp only [matchedReply, hc]

theorem matchedReply_aef {num cmd : Byte} {pl : List Byte} {s : State} (hc : s.sqCur = .aef) :
    matchedReply num cmd pl s = aefReply s := by
  simp only [matchedReply, hc]

/-- Settles O50: with a type byte or without one, the version reply is one record and the sequence's end. -/
theorem versionReplyEndsSequence : Obligations.VersionReplyEndsSequence := by
  intro dev num pl s hp hl hwf ha hc
  obtain ⟨hcmd, -⟩ := hp.not_error
  have hexec : exec (.rxVersion dev num pl) s = versionReply s.params.cmdGv pl s :=
    (receive_answer hl hwf hcmd ha).trans (matchedReply_gv hc)
  rw [hexec]
  cases pl with
  | nil => exact stepDone_gv (s := log _ (clearAwaiting s)) hc
  | cons t rest => exact stepDone_gv (s := log _ (clearAwaiting s)) hc

/-- Settles O51: with a type byte or without one, the device type reply is one record and the sequence's end. -/
theorem deviceTypeReplyEndsSequence : Obligations.DeviceTypeReplyEndsSequence := by
  intro dev num pl s hp hl hwf ha hc
  obtain ⟨-, hcmd, -⟩ := hp.not_error
  have hexec : exec (.rxDevtype dev num pl) s = devtypeReply num s.params.cmdGdt pl s :=
    (receive_answer hl hwf hcmd ha).trans (matchedReply_gdt hc)
  rw [hexec]
  cases pl with
  | nil => exact stepDone_gdt (s := log _ (clearAwaiting s)) hc
  | cons t rest => exact stepDone_gdt (s := log _ (clearAwaiting s)) hc

theorem aefDone_eq (ok : Bool) (s : State) :
    aefDone ok s =
      { s with
        sqAef := .complete, sqSeqComplete := true, outp := s.outp ++ [logRecord (.aefResult ok (s.sqAef == .init))] } :=
  rfl

/-- Settles O58: the handler of this reply reads no payload. -/
theorem errorForwardingReplyCompletes : Obligations.ErrorForwardingReplyCompletes := by
  intro dev num pl s hp hl hwf ha hc
  obtain ⟨-, -, -, hcmd, -⟩ := hp.not_error
  have hexec : exec (.rxAef dev num pl) s = aefReply s := (receive_answer hl hwf hcmd ha).trans (matchedReply_aef hc)
  rw [hexec, aefReply, stepDone_aef (s := clearAwaiting s) hc, aefDone_eq]
  rfl

/-! ## The discovery reply -/

section
variable {dev num : Byte} {pl : List Byte} {s : State}

/-- RX_ACTIVE answering the outstanding request of a discovery is its reply (R256). -/
theorem exec_rxActive_answer (hp : s.params.Wf) (hl : s.sysLive = true)
    (hwf : wellFormed s.params (.rxActive dev num pl) = true) (ha : Answers s num s.params.cmdGai)
    (hc : s.sqCur = .gai) : exec (.rxActive dev num pl) s = activeReply pl s := by
  obtain ⟨-, -, hcmd, -⟩ := hp.not_error
  exact (receive_answer hl hwf hcmd ha).trans (matchedReply_gai hc)

/-- The glitch scan's hit (R260). -/
theorem activeReply_glitch (h : s.params.glitchAddr ∈ pl) : activeReply pl s = .next (log (.glitchDiscard pl) s) :=
  if_pos (by simpa using h)

/-- A reply without the glitch address is accepted: the wait ends, then the zero warning, then the configuration check
(R261 to R263). -/
theorem activeReply_accepted (h : s.params.glitchAddr ∉ pl) :
    activeReply pl s = discoveryOutcome (pl.map normAddr) (warnZero pl (clearAwaiting s)) :=
  if_neg (by simpa using h)

/-- The zero warning is given once (R262). -/
theorem warnZero_eq (pl : List Byte) (s : State) :
    warnZero pl s =
      { s with
        sqZeroWarned := s.sqZeroWarned || decide (0#8 ∈ pl),
        outp := s.outp ++ if 0#8 ∈ pl ∧ s.sqZeroWarned = false then [.log .warn 0x39#8 .zeroAddr] else [] } := by
  by_cases hdue : 0#8 ∈ pl ∧ s.sqZeroWarned = false
  · simp [warnZero, hdue, log, emit, logRecord, Event.sev, Event.code]
  · have hflag : (s.sqZeroWarned || decide (0#8 ∈ pl)) = s.sqZeroWarned := by
      cases hw : s.sqZeroWarned with
      | false => simpa [hw] using hdue
      | true => rfl
    rw [warnZero, if_neg (by simpa using hdue), hflag, if_neg hdue, List.append_nil]

/-- Reading 0 as 1 takes no address above a count of at least 1, and none below it (R262, R263). -/
theorem lt_normAddr_iff {n : Nat} (hn : 1 ≤ n) (b : Byte) : n < (normAddr b).toNat ↔ n < b.toNat := by
  unfold normAddr
  split
  next hb =>
    rw [hb]
    simp only [BitVec.toNat_ofNat]
    omega
  next => rfl

theorem configOffender_map_normAddr (hn : 1 ≤ s.cfgInvCount.toNat) (pl : List Byte) :
    configOffender (pl.map normAddr) s = (pl.find? fun b => decide (s.cfgInvCount.toNat < b.toNat)).map normAddr := by
  simp only [configOffender, List.find?_map, Function.comp_def, lt_normAddr_iff hn]

/-- The first address above the configured count is the offender, as it stands in the payload (R263). -/
theorem configOffender_first {a : Byte} {before after : List Byte} (hn : 1 ≤ s.cfgInvCount.toNat)
    (hbefore : ∀ b ∈ before, b.toNat ≤ s.cfgInvCount.toNat) (ha : s.cfgInvCount.toNat < a.toNat) :
    configOffender ((before ++ a :: after).map normAddr) s = some a := by
  have ha0 : a ≠ 0#8 := by
    rintro rfl
    exact Nat.not_lt_zero _ ha
  have hnone : before.find? (fun b => decide (s.cfgInvCount.toNat < b.toNat)) = none := by simpa using hbefore
  rw [configOffender_map_normAddr hn, List.find?_append, hnone, Option.none_or, List.find?_cons_of_pos (by simpa using ha),
    Option.map_some, normAddr, if_neg ha0]

/-- Without an address above the configured count there is no offender (R263). -/
theorem configOffender_none (hn : 1 ≤ s.cfgInvCount.toNat) (hpl : ∀ b ∈ pl, b.toNat ≤ s.cfgInvCount.toNat) :
    configOffender (pl.map normAddr) s = none := by
  rw [configOffender_map_normAddr hn, Option.map_eq_none_iff]
  simpa using hpl

theorem discoveryOutcome_error {addrs : List Byte} {a : Byte} (hc : s.sqCur = .gai)
    (h : configOffender addrs s = some a) :
    discoveryOutcome addrs s = .next (discoveryDone false (log (.configError a s.cfgInvCount) s)) := by
  simp only [discoveryOutcome, h]
  exact stepDone_gai hc

theorem discoveryOutcome_commit {addrs : List Byte} (hc : s.sqCur = .gai) (h : configOffender addrs s = none) :
    discoveryOutcome addrs s = .next (discoveryDone true (commitDiscovery addrs s)) := by
  simp only [discoveryOutcome, h]
  exact stepDone_gai hc

end

/-- Settles O52: the glitch scan comes before the accept that would end the wait. -/
theorem glitchDiscoveryIsDiscarded : Obligations.GlitchDiscoveryIsDiscarded := by
  intro dev num pl s hp hl hwf ha hc hglitch
  rw [exec_rxActive_answer hp hl hwf ha hc, activeReply_glitch hglitch]
  rfl

/-- Settles O53: normalisation does not move the first offender, and the failure comes before any commit. -/
theorem configErrorKeepsDiscovery : Obligations.ConfigErrorKeepsDiscovery := by
  rintro dev num a _ before after s hp hl hwf ha hc hglitch rfl hoff hn hbefore
  rw [exec_rxActive_answer hp hl hwf ha hc, activeReply_accepted hglitch, warnZero_eq]
  exact discoveryOutcome_error hc (configOffender_first hn hbefore hoff)

/-- Settles O54: without an offender the normalised addresses are committed. -/
theorem discoveryCommits : Obligations.DiscoveryCommits := by
  intro dev num pl s hp hl hwf ha hc hglitch hn hlegal
  rw [exec_rxActive_answer hp hl hwf ha hc, activeReply_accepted hglitch, warnZero_eq,
    ← List.length_map (f := normAddr)]
  exact discoveryOutcome_commit hc (configOffender_none hn hlegal)

end Sys2Proof.Machine
end

section
/-! PROOFS. ENQ (spec/44_command_queue.md R300, R301): the words of ENQ AEF with their optional parameters, and that on a live
block each legal ENQ is the queue's `enqueue` of its kind. -/

namespace Sys2Proof.Machine

/-! ## A transaction word, byte by byte -/

/-- The three upper bytes of a word are fields of it. -/
theorem field_bytes (b3 b2 b1 b0 : Byte) :
    field (b3 ++ b2 ++ b1 ++ b0) 24 8 = b3 ∧ field (b3 ++ b2 ++ b1 ++ b0) 16 8 = b2 ∧
      field (b3 ++ b2 ++ b1 ++ b0) 8 8 = b1 := by
  have hupper {lo : Nat} (h : 8 ≤ lo) :
      field (b3 ++ b2 ++ b1 ++ b0) lo 8 = (b3 ++ b2 ++ b1).extractLsb' (lo - 8) 8 :=
    BitVec.extractLsb'_append_eq_of_le h
  have hmiddle {lo : Nat} (h : 8 ≤ lo) : (b3 ++ b2 ++ b1).extractLsb' lo 8 = (b3 ++ b2).extractLsb' (lo - 8) 8 :=
    BitVec.extractLsb'_append_eq_of_le h
  refine ⟨?_, ?_, ?_⟩
  · rw [hupper (by decide), hmiddle (by decide), BitVec.extractLsb'_append_eq_left]
  · rw [hupper (by decide), hmiddle (by decide), BitVec.extractLsb'_append_eq_right]
  · rw [hupper (by decide), BitVec.extractLsb'_append_eq_right]

/-- A field within the lowest byte of a word does not see the bytes above it. -/
theorem field_lowByte (x : BitVec 24) (b : Byte) {lo n : Nat} (h : lo + n ≤ 8) :
    field (x ++ b) lo n = b.extractLsb' lo n :=
  BitVec.extractLsb'_append_eq_of_add_le h

theorem getLsbD_lowByte (x : BitVec 24) (b : Byte) {i : Nat} (h : i < 8) : (x ++ b).getLsbD i = b.getLsbD i := by
  rw [BitVec.getLsbD_append, if_pos h]

/-! ## The words of ENQ AEF -/

/-- The AEF branch of the ENQ decoder: each parameter stands in its byte, with its valid bit, and is 0 when absent (R112). -/
theorem decodeEnq_aef {w : Word32} {p1 p2 : Option Byte} (hstray : field w 24 8 = 0#8) (hkind : field w 4 2 = 3#2)
    (hvalid1 : w.getLsbD 6 = p1.isSome) (hdata1 : field w 8 8 = p1.getD 0#8)
    (hvalid2 : w.getLsbD 7 = p2.isSome) (hdata2 : field w 16 8 = p2.getD 0#8) :
    decodeEnq w = .ok (.enqAef p1 p2) := by
  rw [decodeEnq, hstray, hkind, hvalid1, hdata1, hvalid2, hdata2]
  cases p1 <;> cases p2 <;> simp

/-- A word whose lowest byte `b` holds the TAG of ENQ, the kind AEF and the two valid bits, with the parameters in the two
bytes above it (R112). -/
theorem decodeTxn_enqAef {p1 p2 : Option Byte} (b : Byte) (htag : b.extractLsb' 0 4 = 4#4)
    (hkind : b.extractLsb' 4 2 = 3#2) (hvalid1 : b.getLsbD 6 = p1.isSome) (hvalid2 : b.getLsbD 7 = p2.isSome) :
    decodeTxn (0#8 ++ p2.getD 0#8 ++ p1.getD 0#8 ++ b) = .ok (.enqAef p1 p2) := by
  obtain ⟨hstray, hdata2, hdata1⟩ := field_bytes 0#8 (p2.getD 0#8) (p1.getD 0#8) b
  rw [decodeTxn, field_lowByte _ b (by decide), htag]
  exact decodeEnq_aef hstray ((field_lowByte _ b (by decide)).trans hkind)
    ((getLsbD_lowByte _ b (by decide)).trans hvalid1) hdata1 ((getLsbD_lowByte _ b (by decide)).trans hvalid2) hdata2

/-! ## ENQ on a live block -/

/-- Each ENQ is the queue's operation for its kind; AEF needs legal parameters (R113). -/
theorem exec_enq {s : State} (hl : s.sysLive = true) :
    exec .enqGv s = .next (enqueue .gv none none s) ∧ exec .enqGdt s = .next (enqueue .gdt none none s) ∧
      exec .enqGai s = .next (enqueue .gai none none s) ∧
      ∀ p1 p2 : Option Byte, (p2.isSome = true → p1.isSome = true) →
        exec (.enqAef p1 p2) s = .next (enqueue .aef p1 p2 s) := by
  refine ⟨whenLive_of_live hl, whenLive_of_live hl, whenLive_of_live hl, fun p1 p2 hlegal => ?_⟩
  have hparams : ¬ (p1.isNone && p2.isSome) = true := by cases p1 <;> simp_all
  exact (whenLive_of_live hl).trans (if_neg hparams)

/-- Settles O17: the decoder reads the parameters back from their bytes, and with room `enqueue` takes the entry. -/
theorem enqueueAppends : Obligations.EnqueueAppends := by
  refine ⟨⟨by decide, by decide, by decide, by decide, fun p1 p2 => ⟨?_, ?_⟩⟩, fun s hl hroom => ?_⟩
  · exact decodeTxn_enqAef (p1 := some p1) (p2 := none) 0x74#8 rfl rfl rfl rfl
  · exact decodeTxn_enqAef (p1 := some p1) (p2 := some p2) 0xF4#8 rfl rfl rfl rfl
  · simpa only [enqueue_room hroom] using exec_enq hl

/-- Settles O18: `enqueue` on a full queue reads only the kind of the entry, for its warning. -/
theorem fullQueueDropsRequest : Obligations.FullQueueDropsRequest := by
  intro s hl hfull
  simpa only [enqueue_full hfull, logRecord, Event.sev, Event.code] using exec_enq hl

end Sys2Proof.Machine
end

section
/-! PROOFS. One step of the block (spec/00_scope.md R7): which words stand for which instructions (spec/30_encoding.md R111),
what a step can do, and the refusals of an ill-formed instruction and of a block that is not live (R49, R113). -/

namespace Sys2Proof.Machine

/-! ## What a step can do -/

/-- Settles O4: with a waiting transaction whose word decodes, both matches of `step` are determined. -/
theorem stepRunsDecodedTransaction : Obligations.StepRunsDecodedTransaction := by
  intro s t rest i hq hd
  simp only [step, hq, hd]
  rfl

/-- The instructions that a transaction word stands for (R111); the rows TX_* and RX_* are no transactions. -/
def isTransaction : Instr → Bool
  | .reset _ _ _ | .rxByte _ | .rxIdle | .tick _ | .enqGv | .enqGdt | .enqGai | .enqAef _ _ | .setDebug _
  | .lineOpen => true
  | _ => false

theorem decodeEnq_isTransaction {w : Word32} {i : Instr} (h : decodeEnq w = .ok i) : isTransaction i = true := by
  unfold decodeEnq at h
  split_ifs at h <;> cases h <;> rfl

/-- A word decodes to transactions only (R111). -/
theorem decodeTxn_isTransaction {w : Word32} {i : Instr} (h : decodeTxn w = .ok i) : isTransaction i = true := by
  unfold decodeTxn at h
  split at h
  case h_5 => exact decodeEnq_isTransaction h
  case h_8 => cases h
  all_goals
    split at h <;> cases h
    rfl

/-- What a step can do: nothing with no transaction waiting, else the decoded transaction's meaning (R7, R348). -/
theorem step_next {s t : State} (h : step s = .next t) :
    (s.inq = [] ∧ t = idle s) ∨
      ∃ x rest i, s.inq = x :: rest ∧ decodeTxn x.op = .ok i ∧ exec i (accepted x rest s) = .next t := by
  unfold step at h
  split at h
  next hq =>
    cases h
    exact .inl ⟨hq, rfl⟩
  next x rest hq =>
    split at h
    next i hd => exact .inr ⟨x, rest, i, hq, hd, h⟩
    next => cases h

/-! ## Refusals -/

/-- Settles O8: ill-formedness is one of the two reasons for which a meaning refuses. -/
theorem illFormedInstructionsAreRefused : Obligations.IllFormedInstructionsAreRefused :=
  fun i s _ hwf => (exec_refuses_iff i s).2 (.inl hwf)

/-- Settles O10: every meaning but that of RESET stands behind the live check. -/
theorem notLiveRefusesAllButReset : Obligations.NotLiveRefusesAllButReset := by
  intro i s hl hi
  cases i with
  | reset ic a d => exact absurd rfl (hi ic a d)
  | _ => exact whenLive_of_not_live hl

end Sys2Proof.Machine
end

section
/-! PROOFS. The control transactions: RESET sets every field and establishes the invariant (spec/10_state.md R50, R51,
spec/70_reset_and_hazards.md R360), SET_DEBUG (spec/44_command_queue.md R309), and the queue as a list (R303). -/

namespace Sys2Proof

theorem Params.Wf.one_le_qCap {p : Params} (h : p.Wf) : 1 ≤ p.qCap := by
  obtain ⟨-, -, -, hcap, -⟩ := h
  exact hcap

end Sys2Proof

namespace Sys2Proof.Machine

/-! ## RESET -/

section
variable {invCount : Byte} {autoAef : Bool} {debug : BitVec 2} {s t : State}

/-- What RESET can do: with legal operands it leaves `afterReset` (R360, R113). -/
theorem execReset_next :
    execReset invCount autoAef debug s = .next t ↔
      (1 ≤ invCount.toNat ∧ invCount.toNat ≤ s.params.maxInv ∧ debug ≠ 3#2) ∧ t = afterReset invCount autoAef debug s := by
  have hrange : (invCount = 0#8 ∨ s.params.maxInv < invCount.toNat) ↔
      ¬ (1 ≤ invCount.toNat ∧ invCount.toNat ≤ s.params.maxInv) := by
    rw [← BitVec.toNat_inj, BitVec.toNat_ofNat]
    omega
  rw [execReset, ← and_assoc]
  simp only [hrange]
  by_cases hcount : 1 ≤ invCount.toNat ∧ invCount.toNat ≤ s.params.maxInv
  · by_cases hdebug : debug = 3#2 <;> simp [hcount, hdebug, eq_comm]
  · simp [hcount]

/-- The state after a legal RESET meets the invariant (R51). -/
theorem afterReset_inv (hp : s.params.Wf) (hmin : 1 ≤ invCount.toNat) (hmax : invCount.toNat ≤ s.params.maxInv)
    (hdebug : debug ≠ 3#2) : (afterReset invCount autoAef debug s).Inv := by
  have hcap := hp.one_le_qCap
  refine ⟨hp, fun _ => ⟨afterReset_arraysWf, ⟨hmin, hmax, hdebug⟩, ?assembler, ?discovery, ?sequencer, ?queue⟩⟩
  case assembler => simp [State.AssemblerWf, afterReset]
  case discovery => simp [State.DiscoveryWf, afterReset]
  case sequencer => cases autoAef <;> simp [State.SequencerWf, afterReset]
  case queue =>
    simp [State.QueueWf, afterReset]
    omega

end

/-- Settles O13: with legal operands RESET is `afterReset`, which is the table of R50. -/
theorem resetSetsEveryField : Obligations.ResetSetsEveryField := by
  intro invCount autoAef debug s hmin hmax hdebug
  refine ⟨_, execReset_next.2 ⟨⟨hmin, hmax, hdebug⟩, rfl⟩, ?_⟩
  simp [afterReset, Config.pNSlots]

/-- Settles O14: no field of `afterReset` but the ports reads more than the operands, the time and the parameters. -/
theorem resetForgetsTheState : Obligations.ResetForgetsTheState := by
  intro invCount autoAef debug s s' t t' hparams hnow h h'
  obtain ⟨-, rfl⟩ := execReset_next.1 h
  obtain ⟨-, rfl⟩ := execReset_next.1 h'
  simp only [afterReset, hparams, hnow]

/-- Settles O15: a RESET that completes had legal operands. -/
theorem resetEstablishesInvariant : Obligations.ResetEstablishesInvariant := by
  intro invCount autoAef debug s t hp h
  obtain ⟨⟨hmin, hmax, hdebug⟩, rfl⟩ := execReset_next.1 h
  exact afterReset_inv hp hmin hmax hdebug

theorem testBinding_wf : Config.testBinding.Wf := by
  refine ⟨?_, ?_, ?_, ?_, ?_, ?_, ?_, ?_, ?_⟩ <;> decide

/-- Settles O9: the parts of the invariant on the one state. -/
theorem resetStateMeetsInvariant : Obligations.ResetStateMeetsInvariant := by
  refine ⟨testBinding_wf, fun _ => ⟨?arrays, ?config, ?assembler, ?discovery, ?sequencer, ?queue⟩⟩
  case arrays => decide
  case config => decide
  case assembler => simp [State.AssemblerWf, State.reset]
  case discovery => simp [State.DiscoveryWf, State.reset]
  case sequencer => simp [State.SequencerWf, State.reset]
  case queue => decide

/-! ## SET_DEBUG -/

/-- The word of SET_DEBUG has TAG 5, its level and no stray bit (R112). -/
theorem decodeTxn_setDebug : ∀ level : BitVec 2, decodeTxn (0#26 ++ level ++ 0x5#4) = .ok (.setDebug level) := by
  decide

/-- Settles O16: the word decodes, and a live block takes a legal level. -/
theorem setDebugSetsLevel : Obligations.SetDebugSetsLevel := by
  intro level s hl hlevel
  exact ⟨decodeTxn_setDebug level, (whenLive_of_live hl).trans (if_neg hlevel)⟩

/-! ## The queue as a list -/

/-- The slots of the waiting entries and the next free one are distinct places of the ring (R47). -/
theorem ring_ne {cap tail i n : Nat} (hi : i < n) (hn : n < cap) : (tail + i) % cap ≠ (tail + n) % cap := by
  intro h
  have hmod : i % cap = n % cap := Nat.ModEq.add_left_cancel' tail h
  rw [Nat.mod_eq_of_lt (hi.trans hn), Nat.mod_eq_of_lt hn] at hmod
  omega

section
variable {s : State}

theorem queued_enqueue_room (hq : s.QueueWf) (hlen : s.qEnt.length = s.params.qCap) (k : QKind) (p1 p2 : Option Byte)
    (hroom : s.qCount < s.params.qCap) :
    queued (enqueue k p1 p2 s) = queued s ++ [some (QEntry.mk k p1 p2)] := by
  obtain ⟨-, hhead, -, heq⟩ := hq
  rw [enqueue_room hroom]
  simp only [queued, List.range_succ, List.map_append, List.map_singleton]
  congr 1
  · refine List.map_congr_left fun i hi => List.getElem?_set_ne ?_
    rw [heq]
    exact (ring_ne (List.mem_range.1 hi) hroom).symm
  · rw [← heq, List.getElem?_set_self (by omega)]

theorem queued_enqueue_full (k : QKind) (p1 p2 : Option Byte) (hfull : s.qCount = s.params.qCap) :
    queued (enqueue k p1 p2 s) = queued s := by
  rw [enqueue_full hfull]
  rfl

/-- The oldest entry is the one at `q_tail` (R302). -/
theorem queued_eq_cons (hq : s.QueueWf) (hc : 0 < s.qCount) :
    queued s = s.qEnt[s.qTail]? :: queued { s with qTail := (s.qTail + 1) % s.params.qCap, qCount := s.qCount - 1 } := by
  obtain ⟨-, -, htail, -⟩ := hq
  obtain ⟨n, hn⟩ := Nat.exists_eq_add_of_le' hc
  simp only [queued, hn, Nat.add_sub_cancel, List.range_succ_eq_map, List.map_cons, List.map_map, Nat.add_zero,
    Nat.mod_eq_of_lt htail]
  congr 1
  refine List.map_congr_left fun i _ => ?_
  simp only [Function.comp_apply, Nat.mod_add_mod]
  congr 2
  omega

/-- A queue that is not empty gives its entry at `q_tail` (R302). -/
theorem dequeue_of_pos (hq : s.QueueWf) (hlen : s.qEnt.length = s.params.qCap) :
    ∃ e, s.qEnt[s.qTail]? = some e ∧
      dequeue s = some (e, { s with qTail := (s.qTail + 1) % s.params.qCap, qCount := s.qCount - 1 }) := by
  obtain ⟨-, -, htail, -⟩ := hq
  have hlt : s.qTail < s.qEnt.length := by omega
  exact ⟨s.qEnt[s.qTail], List.getElem?_eq_getElem hlt, dequeue_eq_some.2 ⟨List.getElem?_eq_getElem hlt, rfl⟩⟩

end

/-- Settles O19: the new entry goes to a place that no waiting one has, and the oldest waits at `q_tail`. -/
theorem queueIsFifo : Obligations.QueueIsFifo := by
  intro s hq hlen
  refine ⟨queued_enqueue_room hq hlen, queued_enqueue_full, fun hc => ?_⟩
  obtain ⟨e, he, hd⟩ := dequeue_of_pos hq hlen
  exact ⟨e, _, hd, by rw [queued_eq_cons hq hc, he]⟩

end Sys2Proof.Machine
end

section
/-! PROOFS. The encoded surfaces (spec/30_encoding.md): a transaction word and the transaction it stands for determine each
other (R111, R112), and a built frame is read back as the request or the inbound class it was built from (R100 to R105). -/

namespace Sys2Proof.Machine

/-- Settles O3: eight closed evaluations of the decoders. -/
theorem exampleWordsDecode : Obligations.ExampleWordsDecode := by
  refine ⟨?_, ?_, ?_, ?_, ?_, ?_, ?_, ?_⟩ <;> decide

/-! ## The decoder, TAG by TAG -/

section
variable {w : Word32}

theorem decodeTxn_tag0 (h : w.toNat % 16 = 0) :
    decodeTxn w =
      if field w 15 17 ≠ 0#17 then .error .strayBits
      else .ok (.reset (field w 4 8) (w.getLsbD 12) (field w 13 2)) := by
  simp only [decodeTxn, field_tag h]

theorem decodeTxn_tag1 (h : w.toNat % 16 = 1) :
    decodeTxn w = if field w 12 20 ≠ 0#20 then .error .strayBits else .ok (.rxByte (field w 4 8)) := by
  simp only [decodeTxn, field_tag h]

theorem decodeTxn_tag2 (h : w.toNat % 16 = 2) :
    decodeTxn w = if field w 4 28 ≠ 0#28 then .error .strayBits else .ok .rxIdle := by
  simp only [decodeTxn, field_tag h]

theorem decodeTxn_tag3 (h : w.toNat % 16 = 3) :
    decodeTxn w = if field w 9 23 ≠ 0#23 then .error .strayBits else .ok (.tick (field w 4 5)) := by
  simp only [decodeTxn, field_tag h]

theorem decodeTxn_tag4 (h : w.toNat % 16 = 4) : decodeTxn w = decodeEnq w := by
  simp only [decodeTxn, field_tag h]

theorem decodeTxn_tag5 (h : w.toNat % 16 = 5) :
    decodeTxn w = if field w 6 26 ≠ 0#26 then .error .strayBits else .ok (.setDebug (field w 4 2)) := by
  simp only [decodeTxn, field_tag h]

theorem decodeTxn_tag6 (h : w.toNat % 16 = 6) :
    decodeTxn w = if field w 4 28 ≠ 0#28 then .error .strayBits else .ok .lineOpen := by
  simp only [decodeTxn, field_tag h]

theorem decodeTxn_tag7 (h : 7 ≤ w.toNat % 16) : decodeTxn w = .error .reservedTag := by
  obtain ⟨k, hk⟩ := Nat.exists_eq_add_of_le' h
  simp only [decodeTxn, field_tag hk]

/-- The decoder's answer for a TAG other than ENQ: the bits that R112 does not list are 0. -/
theorem ok_of_strayBits_ite {lo n : Nat} {i j : Instr} (hlo : lo + n = 32)
    (h : (if field w lo n ≠ 0#n then .error .strayBits else .ok j : Except DecodeError Instr) = .ok i) :
    w.toNat < 2 ^ lo ∧ j = i := by
  split at h
  next => cases h
  next hclean =>
    cases h
    rw [top_field_ne_zero hlo, Nat.not_le] at hclean
    exact ⟨hclean, rfl⟩

/-- A word without stray bits passes the decoder's test. -/
theorem strayBits_ite_of_clean {lo n : Nat} {i j : Instr} (hlo : lo + n = 32) (hclean : w.toNat < 2 ^ lo) (h : i = j) :
    (if field w lo n ≠ 0#n then .error .strayBits else .ok i : Except DecodeError Instr) = .ok j := by
  rw [h, if_neg (mt (top_field_ne_zero hlo).1 (Nat.not_le.2 hclean))]

/-! ## Words as numbers -/

theorem toNat_append_eq {m n : Nat} (x : BitVec m) (y : BitVec n) : (x ++ y).toNat = x.toNat * 2 ^ n + y.toNat := by
  rw [BitVec.toNat_append, ← Nat.shiftLeft_add_eq_or_of_lt y.isLt, Nat.shiftLeft_eq]

theorem getLsbD_toNat (w : Word32) (i : Nat) : (w.getLsbD i).toNat = w.toNat / 2 ^ i % 2 := by
  cases h : w.getLsbD i with
  | false => simpa using (getLsbD_eq_false_iff.1 h).symm
  | true => simpa using (getLsbD_eq_true_iff.1 h).symm

/-- A word with one field above its TAG as a number (R112). -/
theorem fieldWord_toNat (m : Nat) {n : Nat} (x : BitVec n) (tag : BitVec 4) :
    (0#m ++ x ++ tag).toNat = x.toNat * 2 ^ 4 + tag.toNat := by
  rw [toNat_append_eq, toNat_append_eq, BitVec.toNat_ofNat, Nat.zero_mod, Nat.zero_mul, Nat.zero_add]

/-- The word of RESET as a number (R112). -/
theorem resetWord_toNat (dbg : BitVec 2) (autoAef : Bool) (invCount : Byte) :
    (0#17 ++ dbg ++ BitVec.ofBool autoAef ++ invCount ++ 0x0#4 : Word32).toNat =
      dbg.toNat * 2 ^ 13 + autoAef.toNat * 2 ^ 12 + invCount.toNat * 2 ^ 4 := by
  simp only [toNat_append_eq, BitVec.toNat_ofNat, BitVec.toNat_ofBool]
  omega

/-- The word of ENQ as a number (R112). -/
theorem enqWord_toNat (kind : BitVec 2) (p1 p2 : Option Byte) :
    (enqWord kind p1 p2).toNat =
      (p2.getD 0#8).toNat * 2 ^ 16 + (p1.getD 0#8).toNat * 2 ^ 8 + p2.isSome.toNat * 2 ^ 7 + p1.isSome.toNat * 2 ^ 6 +
        kind.toNat * 2 ^ 4 + 4 := by
  simp only [enqWord, toNat_append_eq, BitVec.toNat_ofNat, BitVec.toNat_ofBool]
  omega

/-! ## A word that decodes is the encoding of what it decodes to -/

/-- The words of ENQ, along the branches of `decodeEnq` that answer. -/
theorem encode_of_decodeEnq {p : Params} {i : Instr} (htag : w.toNat % 16 = 4) (h : decodeEnq w = .ok i) :
    encode p i = .word w := by
  simp only [decodeEnq, top_field_ne_zero (show 24 + 8 = 32 from rfl), field_eq_iff, ne_eq, Bool.or_eq_true,
    getLsbD_eq_true_iff, getLsbD_eq_false_iff, BitVec.toNat_ofNat] at h
  split at h
  · cases h
  split at h
  · cases h
  split at h
  · cases h
  split at h
  next =>
    cases h
    refine congrArg Code.word (BitVec.eq_of_toNat_eq ?_)
    rw [enqWord_toNat]
    split <;> split <;> simp [field_toNat] <;> omega
  split at h
  · cases h
  split at h
  next =>
    cases h
    refine congrArg Code.word (BitVec.eq_of_toNat_eq ?_)
    simp [enqWord_toNat]
    omega
  split at h
  all_goals
    cases h
    refine congrArg Code.word (BitVec.eq_of_toNat_eq ?_)
    simp [enqWord_toNat]
    omega

end

/-- Settles O2: the TAG selects the branch of the decoder, whose fields are all the bits of the word that are not 0. -/
theorem transactionWordsHaveOneMeaning : Obligations.TransactionWordsHaveOneMeaning := by
  intro p w i h
  have hword {x : Word32} (hx : x.toNat = w.toNat) : Code.word x = .word w :=
    congrArg Code.word (BitVec.eq_of_toNat_eq hx)
  have htag : w.toNat % 16 = 0 ∨ w.toNat % 16 = 1 ∨ w.toNat % 16 = 2 ∨ w.toNat % 16 = 3 ∨ w.toNat % 16 = 4 ∨
      w.toNat % 16 = 5 ∨ w.toNat % 16 = 6 ∨ 7 ≤ w.toNat % 16 := by omega
  rcases htag with ht | ht | ht | ht | ht | ht | ht | ht
  · rw [decodeTxn_tag0 ht] at h
    obtain ⟨hclean, rfl⟩ := ok_of_strayBits_ite rfl h
    refine hword ?_
    rw [resetWord_toNat, field_toNat, field_toNat, getLsbD_toNat]
    omega
  · rw [decodeTxn_tag1 ht] at h
    obtain ⟨hclean, rfl⟩ := ok_of_strayBits_ite rfl h
    exact hword (by rw [fieldWord_toNat, field_toNat, BitVec.toNat_ofNat]; omega)
  · rw [decodeTxn_tag2 ht] at h
    obtain ⟨hclean, rfl⟩ := ok_of_strayBits_ite rfl h
    exact hword (show 2 = w.toNat by omega)
  · rw [decodeTxn_tag3 ht] at h
    obtain ⟨hclean, rfl⟩ := ok_of_strayBits_ite rfl h
    exact hword (by rw [fieldWord_toNat, field_toNat, BitVec.toNat_ofNat]; omega)
  · rw [decodeTxn_tag4 ht] at h
    exact encode_of_decodeEnq ht h
  · rw [decodeTxn_tag5 ht] at h
    obtain ⟨hclean, rfl⟩ := ok_of_strayBits_ite rfl h
    exact hword (by rw [fieldWord_toNat, field_toNat, BitVec.toNat_ofNat]; omega)
  · rw [decodeTxn_tag6 ht] at h
    obtain ⟨hclean, rfl⟩ := ok_of_strayBits_ite rfl h
    exact hword (show 6 = w.toNat by omega)
  · rw [decodeTxn_tag7 ht] at h
    cases h

/-! ## The words of the transactions decode -/

section
variable (invCount b : Byte) (autoAef : Bool) (dbg : BitVec 2) (dom : BitVec 5)

theorem decodeTxn_reset :
    decodeTxn (0#17 ++ dbg ++ BitVec.ofBool autoAef ++ invCount ++ 0x0#4) = .ok (.reset invCount autoAef dbg) := by
  have hw := resetWord_toNat dbg autoAef invCount
  have hbool : autoAef.toNat ≤ 1 := Bool.toNat_le autoAef
  rw [decodeTxn_tag0 (by omega)]
  refine strayBits_ite_of_clean rfl (by omega) ?_
  congr 1
  · rw [field_eq_iff, hw]
    omega
  · rw [Bool.eq_iff_iff, getLsbD_eq_true_iff, hw]
    cases autoAef <;> simp <;> omega
  · rw [field_eq_iff, hw]
    omega

theorem decodeTxn_rxByte : decodeTxn (0#20 ++ b ++ 0x1#4) = .ok (.rxByte b) := by
  have hw : (0#20 ++ b ++ 0x1#4 : Word32).toNat = b.toNat * 2 ^ 4 + 1 := fieldWord_toNat 20 b 0x1#4
  rw [decodeTxn_tag1 (by omega)]
  refine strayBits_ite_of_clean rfl (by omega) (congrArg Instr.rxByte ?_)
  rw [field_eq_iff, hw]
  omega

theorem decodeTxn_tick : decodeTxn (0#23 ++ dom ++ 0x3#4) = .ok (.tick dom) := by
  have hw : (0#23 ++ dom ++ 0x3#4 : Word32).toNat = dom.toNat * 2 ^ 4 + 3 := fieldWord_toNat 23 dom 0x3#4
  rw [decodeTxn_tag3 (by omega)]
  refine strayBits_ite_of_clean rfl (by omega) (congrArg Instr.tick ?_)
  rw [field_eq_iff, hw]
  omega

theorem decodeTxn_enqWord_aef (p1 p2 : Option Byte) : decodeTxn (enqWord 3#2 p1 p2) = .ok (.enqAef p1 p2) := by
  have hw := enqWord_toNat 3#2 p1 p2
  have hbyte1 : (p1.getD 0#8).toNat < 2 ^ 8 := BitVec.isLt _
  have hbyte2 : (p2.getD 0#8).toNat < 2 ^ 8 := BitVec.isLt _
  have hbool1 : p1.isSome.toNat ≤ 1 := Bool.toNat_le _
  have hbool2 : p2.isSome.toNat ≤ 1 := Bool.toNat_le _
  rw [BitVec.toNat_ofNat] at hw
  rw [decodeTxn_tag4 (by omega)]
  refine decodeEnq_aef ?_ ?_ ?_ ?_ ?_ ?_
  · rw [field_eq_iff, hw, BitVec.toNat_ofNat]
    omega
  · rw [field_eq_iff, hw, BitVec.toNat_ofNat]
    omega
  · rw [Bool.eq_iff_iff, getLsbD_eq_true_iff, hw, ← Bool.toNat_eq_one]
    omega
  · rw [field_eq_iff, hw]
    omega
  · rw [Bool.eq_iff_iff, getLsbD_eq_true_iff, hw, ← Bool.toNat_eq_one]
    omega
  · rw [field_eq_iff, hw]
    omega

end

end Sys2Proof.Machine

namespace Sys2Proof

open Machine

/-! ## Built frames are read back -/

section
variable {p : Params}

/-- The codes of the requests differ (R104). -/
theorem Params.Wf.requests_ne (h : p.Wf) :
    p.cmdGdt ≠ p.cmdGv ∧ p.cmdGai ≠ p.cmdGv ∧ p.cmdGai ≠ p.cmdGdt ∧ p.cmdAef ≠ p.cmdGv ∧ p.cmdAef ≠ p.cmdGdt ∧
      p.cmdAef ≠ p.cmdGai := by
  have hn := h.others_nodup
  simp only [List.nodup_cons, List.mem_cons, List.not_mem_nil, or_false, not_or] at hn
  obtain ⟨⟨a1, a2, a3, -⟩, ⟨b1, b2, -⟩, ⟨c1, -⟩, -⟩ := hn
  exact ⟨Ne.symm a1, Ne.symm a2, Ne.symm b1, Ne.symm a3, Ne.symm b2, Ne.symm c1⟩

theorem decodeOutbound_frame {dev num cmd : Byte} {pl : List Byte} (h : pl.length ≤ 255) :
    decodeOutbound p (frame dev num cmd pl) = classifyRequest p (FrameFields.mk dev num cmd pl) := by
  simp only [decodeOutbound, parseFrame_frame h]

/-- A built frame that the Frame Assembler validates is read back by its class (R143, R144). -/
theorem decodeInbound_frame (hp : p.Wf) {dev num cmd : Byte} {pl : List Byte}
    (h : WellFormed.inboundPayload p pl = true) :
    decodeInbound p (frame dev num cmd pl) = classifyInbound p (FrameFields.mk dev num cmd pl) := by
  obtain ⟨-, hmax, -⟩ := hp
  simp only [WellFormed.inboundPayload, Bool.and_eq_true, decide_eq_true_eq] at h
  obtain ⟨hlen, hsize⟩ := h
  simp only [decodeInbound, parseFrame_frame (hlen.trans hmax), if_neg (Nat.not_lt.2 hlen), if_neg (Nat.not_lt.2 hsize)]

section
variable (hp : p.Wf)
include hp

theorem classifyRequest_getactive : classifyRequest p (FrameFields.mk 0#8 0#8 p.cmdGai []) = .ok .txGetactive := by
  obtain ⟨-, hgai, -⟩ := hp.requests_ne
  simp [classifyRequest, hgai]

theorem classifyRequest_getdevtype (n : Byte) :
    classifyRequest p (FrameFields.mk p.devInv n p.cmdGdt []) = .ok (.txGetdevtype n) := by
  obtain ⟨hgdt, -, hgai, -⟩ := hp.requests_ne
  simp [classifyRequest, hgdt, hgai.symm]

theorem classifyRequest_getval {k : Nat} (hk : k < 9) (n : Byte) :
    classifyRequest p (FrameFields.mk p.devInv n (p.cmdVal k) []) = .ok (txGetvalInstr k n) := by
  obtain ⟨hgv, hgdt, hgai, -⟩ := hp.cmdVal_ne hk
  simp [classifyRequest, hgv, hgdt, hgai, valSlot_cmdVal hk]

/-- Reading the request for slot `k` back (R233 to R241). -/
theorem decodeOutbound_getval {k : Nat} (hk : k < 9) (n : Byte) :
    decodeOutbound p (getvalFrame p k n) = .ok (txGetvalInstr k n) :=
  (decodeOutbound_frame (Nat.zero_le _)).trans (classifyRequest_getval hp hk n)

variable {dev num : Byte} {pl : List Byte}

theorem classifyInbound_estate :
    classifyInbound p (FrameFields.mk dev num p.cmdEstate pl) = .ok (.rxErrorState dev num pl) := by
  obtain ⟨-, -, -, -, hperr⟩ := hp.not_error
  simp [classifyInbound, hperr]

theorem classifyInbound_version :
    classifyInbound p (FrameFields.mk dev num p.cmdGv pl) = .ok (.rxVersion dev num pl) := by
  obtain ⟨⟨hperr, hestate⟩, -⟩ := hp.not_error
  simp [classifyInbound, hperr, hestate]

theorem classifyInbound_devtype :
    classifyInbound p (FrameFields.mk dev num p.cmdGdt pl) = .ok (.rxDevtype dev num pl) := by
  obtain ⟨-, ⟨hperr, hestate⟩, -⟩ := hp.not_error
  obtain ⟨hgv, -⟩ := hp.requests_ne
  simp [classifyInbound, hperr, hestate, hgv]

theorem classifyInbound_active :
    classifyInbound p (FrameFields.mk dev num p.cmdGai pl) = .ok (.rxActive dev num pl) := by
  obtain ⟨-, -, ⟨hperr, hestate⟩, -⟩ := hp.not_error
  obtain ⟨-, hgv, hgdt, -⟩ := hp.requests_ne
  simp [classifyInbound, hperr, hestate, hgv, hgdt]

theorem classifyInbound_aef :
    classifyInbound p (FrameFields.mk dev num p.cmdAef pl) = .ok (.rxAef dev num pl) := by
  obtain ⟨-, -, -, ⟨hperr, hestate⟩, -⟩ := hp.not_error
  obtain ⟨-, -, -, hgv, hgdt, hgai⟩ := hp.requests_ne
  simp [classifyInbound, hperr, hestate, hgv, hgdt, hgai]

theorem classifyInbound_val {k : Nat} (hk : k < 9) :
    classifyInbound p (FrameFields.mk dev num (p.cmdVal k) pl) = .ok (rxValInstr k dev num pl) := by
  obtain ⟨hgv, hgdt, hgai, haef, hperr, hestate⟩ := hp.cmdVal_ne hk
  simp [classifyInbound, hperr, hestate, hgv, hgdt, hgai, haef, valSlot_cmdVal hk]

/-- Reading the value reply of slot `k` back (R280 to R288). -/
theorem decodeInbound_val {k : Nat} (hk : k < 9) (h : WellFormed.inboundPayload p pl = true) :
    decodeInbound p (frame dev num (p.cmdVal k) pl) = .ok (rxValInstr k dev num pl) :=
  (decodeInbound_frame hp h).trans (classifyInbound_val hp hk)

end
end

/-- Settles O1: the words by their fields as numbers, the frames by the code of their class. -/
theorem decodeEncodeRoundTrip : Obligations.DecodeEncodeRoundTrip := by
  intro p i hp hwf
  cases i with
  | reset invCount autoAef debug => exact decodeTxn_reset invCount autoAef debug
  | rxByte b => exact decodeTxn_rxByte b
  | tick dom => exact decodeTxn_tick dom
  | enqAef p1 p2 => exact decodeTxn_enqWord_aef p1 p2
  | setDebug level => exact decodeTxn_setDebug level
  | rxIdle | lineOpen | enqGv | enqGdt | enqGai => rfl
  | txGetversion => exact (decodeOutbound_frame (Nat.zero_le _)).trans (if_pos ⟨rfl, rfl, rfl⟩)
  | txGetdevtype n => exact (decodeOutbound_frame (Nat.zero_le _)).trans (classifyRequest_getdevtype hp n)
  | txGetactive => exact (decodeOutbound_frame (Nat.zero_le _)).trans (classifyRequest_getactive hp)
  | txAef p1 p2 =>
    exact (decodeOutbound_frame (pl := [p1, p2]) (show 2 ≤ 255 by decide)).trans (if_pos ⟨rfl, rfl, rfl⟩)
  | txGetval0 n => exact decodeOutbound_getval hp (k := 0) (by decide) n
  | txGetval1 n => exact decodeOutbound_getval hp (k := 1) (by decide) n
  | txGetval2 n => exact decodeOutbound_getval hp (k := 2) (by decide) n
  | txGetval3 n => exact decodeOutbound_getval hp (k := 3) (by decide) n
  | txGetval4 n => exact decodeOutbound_getval hp (k := 4) (by decide) n
  | txGetval5 n => exact decodeOutbound_getval hp (k := 5) (by decide) n
  | txGetval6 n => exact decodeOutbound_getval hp (k := 6) (by decide) n
  | txGetval7 n => exact decodeOutbound_getval hp (k := 7) (by decide) n
  | txGetval8 n => exact decodeOutbound_getval hp (k := 8) (by decide) n
  | rxProtocolError => exact (decodeInbound_frame hp hwf).trans (if_pos rfl)
  | rxErrorState => exact (decodeInbound_frame hp hwf).trans (classifyInbound_estate hp)
  | rxVersion => exact (decodeInbound_frame hp hwf).trans (classifyInbound_version hp)
  | rxDevtype => exact (decodeInbound_frame hp hwf).trans (classifyInbound_devtype hp)
  | rxActive => exact (decodeInbound_frame hp hwf).trans (classifyInbound_active hp)
  | rxAef => exact (decodeInbound_frame hp hwf).trans (classifyInbound_aef hp)
  | rxVal0 => exact decodeInbound_val hp (k := 0) (by decide) hwf
  | rxVal1 => exact decodeInbound_val hp (k := 1) (by decide) hwf
  | rxVal2 => exact decodeInbound_val hp (k := 2) (by decide) hwf
  | rxVal3 => exact decodeInbound_val hp (k := 3) (by decide) hwf
  | rxVal4 => exact decodeInbound_val hp (k := 4) (by decide) hwf
  | rxVal5 => exact decodeInbound_val hp (k := 5) (by decide) hwf
  | rxVal6 => exact decodeInbound_val hp (k := 6) (by decide) hwf
  | rxVal7 => exact decodeInbound_val hp (k := 7) (by decide) hwf
  | rxVal8 => exact decodeInbound_val hp (k := 8) (by decide) hwf

end Sys2Proof
end

section
/-! PROOFS. What one byte of the serial line can do (spec/40_frame_assembler.md R140 to R149), said once: it is stored, it
discards the candidate frame, or it completes the frame, which then goes to the sequencer. From this the statements on the
FRAME records (spec/10_state.md R58) and on complete frames (R152). -/

namespace Sys2Proof.Machine

/-! ## What a byte can do -/

/-- The byte `b` belongs to the candidate frame that the state `s` holds, before its last position: a sync byte, a legal LEN,
or any byte of the body (R141, R143, R145). -/
inductive Belongs (b : Byte) (s : State) : Prop where
  /-- Positions 0 to 2 (R141). -/
  | sync (hpos : s.faPos < 3) (hb : b = Config.pSync)
  /-- Position 3 (R143). -/
  | length (hpos : s.faPos = 3) (hroom : s.faPos < s.params.bufSize) (hb : b.toNat ≤ s.params.maxInv)
  /-- From position 4 to the last but one (R145). -/
  | body (len : Byte) (hpos : 4 ≤ s.faPos) (hroom : s.faPos < s.params.bufSize) (hlen : s.faBuf[3]? = some len)
      (hlast : s.faPos < len.toNat + 7)

/-- The state in which the byte `b` has completed the frame of length LEN + 8 and has reset the assembler, before the frame is
dispatched (R146). -/
def frameCompleted (len : Nat) (b : Byte) (s : State) : State :=
  { s with
    faBuf := s.faBuf.set (len + 7) b, faPos := 0,
    outp := s.outp ++ [.frame (.complete ((s.faBuf.set (len + 7) b).take (len + 8)))] }

/-- The state `t` that the byte `b` leaves when the assembler takes it in the state `s`. -/
inductive Ingested (b : Byte) (s : State) : State → Prop where
  /-- The byte is stored: CONTINUE (R141, R143, R145). -/
  | stored (h : Belongs b s) : Ingested b s (emit (.frame .continued) (storeByte s.faPos b s))
  /-- The candidate is discarded, with what the discard logs (R142 to R144, R147, R148). -/
  | discarded (reason : DiscardReason) (errs : Word32) (buf : List Byte) (recs : List Record)
      (hbuf : buf.length = s.faBuf.length) (hrecs : Reports recs) :
      Ingested b s
        { s with
          faPos := 0, faSyncErrs := errs, faBuf := buf, outp := s.outp ++ .frame (.discard reason) :: recs }
  /-- The frame is complete and is dispatched (R146). -/
  | completed (len : Byte) (t : State) (hpos : 4 ≤ s.faPos) (hroom : s.faPos < s.params.bufSize)
      (hlen : s.faBuf[3]? = some len) (hlast : s.faPos = len.toNat + 7)
      (hsum : bufChecksum len.toNat s.faBuf = b)
      (h : dispatch (s.faBuf.getD 4 0#8) (s.faBuf.getD 5 0#8) (s.faBuf.getD 6 0#8) (bufPayload len.toNat s.faBuf)
        (frameCompleted len.toNat b s) = .next t) : Ingested b s t

theorem syncByte_ingested {b : Byte} {s : State} (hpos : s.faPos < 3) : Ingested b s (syncByte b s.faPos s) := by
  by_cases hb : b = Config.pSync
  · rw [hb, syncByte_match]
    exact .stored (.sync hpos rfl)
  · rw [syncByte_mismatch hb, syncMismatch_eq, List.append_assoc]
    refine .discarded .badSync _ s.faBuf _ rfl ?_
    split
    · exact Reports.log _
    · exact Reports.nil

theorem lengthByte_ingested {b : Byte} {s : State} (hpos : s.faPos = 3) (hroom : s.faPos < s.params.bufSize) :
    Ingested b s (lengthByte b s) := by
  rcases Nat.lt_or_ge s.params.maxInv b.toNat with hb | hb
  · rw [lengthByte_rejected hb, log_raiseDiscard]
    exact .discarded .badLen s.faSyncErrs s.faBuf _ rfl (Reports.log _)
  · rw [lengthByte_accepted hb, ← hpos]
    exact .stored (.length hpos hroom hb)

theorem lastByte_ingested {b len : Byte} {s t : State} (hroom : s.faPos < s.params.bufSize)
    (hlen : s.faBuf[3]? = some len) (hlast : s.faPos = len.toNat + 7)
    (h : lastByte len.toNat (len.toNat + 7) b s = .next t) : Ingested b s t := by
  by_cases hsum : bufChecksum len.toNat s.faBuf = b
  · rw [lastByte_good hsum] at h
    exact .completed len t (by omega) hroom hlen hlast hsum h
  · rw [lastByte_bad hsum] at h
    cases h
    exact .discarded .badCsum s.faSyncErrs _ _ (List.length_set ..) (Reports.log _)

/-- The position tests of R140, each with what it leads to. -/
theorem ingest_ingested {b : Byte} {s t : State} (h : ingest b s = .next t) : Ingested b s t := by
  unfold ingest at h
  split at h
  next hpos =>
    cases h
    exact syncByte_ingested hpos
  next hpos3 =>
  split at h
  next =>
    cases h
    rw [overflowByte, log_raiseDiscard]
    exact .discarded .overflow s.faSyncErrs s.faBuf _ rfl (Reports.log _)
  next hfull =>
  have hroom : s.faPos < s.params.bufSize := Nat.lt_of_not_le hfull
  split at h
  next hpos =>
    cases h
    exact lengthByte_ingested hpos hroom
  next hpos =>
  unfold bodyByte at h
  split at h
  next => cases h
  next len hlen =>
  split at h
  next hlast =>
    cases h
    exact .stored (.body len (by omega) hroom hlen hlast)
  next =>
  split at h
  next hlast =>
    rw [hlast] at h
    exact lastByte_ingested hroom hlen hlast h
  next => cases h

/-- RX_BYTE re-arms the watchdog, then the assembler takes the byte (R140). -/
theorem execRxByte_next {b : Byte} {s t : State} (h : exec (.rxByte b) s = .next t) :
    s.sysLive = true ∧ Ingested b (rearm s) t := by
  obtain ⟨hl, h⟩ := whenLive_next.1 h
  exact ⟨hl, ingest_ingested h⟩

/-! ## The FRAME records -/

/-- The records of a byte: its FRAME record, then reports (R58, R330). -/
theorem Ingested.outp {b : Byte} {s t : State} (h : Ingested b s t) :
    ∃ ev recs, t.outp = s.outp ++ .frame ev :: recs ∧ Reports recs := by
  cases h with
  | stored => exact ⟨_, [], rfl, Reports.nil⟩
  | discarded reason errs buf recs _ hrecs => exact ⟨_, recs, rfl, hrecs⟩
  | completed len _ _ _ _ _ _ h =>
    obtain ⟨-, recs, hout, hrecs⟩ := dispatch_work h
    exact ⟨_, recs, by rw [hout]; exact List.append_assoc .., hrecs⟩

/-- Settles O26: each of the three things a byte can do starts with its FRAME record, and reports are no FRAME records. -/
theorem oneFrameRecordPerByte : Obligations.OneFrameRecordPerByte := by
  intro b s t h
  obtain ⟨-, hin⟩ := execRxByte_next h
  obtain ⟨ev, recs, hout, hrecs⟩ := hin.outp
  exact ⟨ev, recs, hout, fun r hr => (hrecs r hr).1⟩

/-- Settles O28: only a completed frame is dispatched, and it puts its COMPLETE record first. -/
theorem onlyCompleteFramesReachSequencer : Obligations.OnlyCompleteFramesReachSequencer := by
  intro b s t h hnone
  obtain ⟨-, hin⟩ := execRxByte_next h
  cases hin with
  | stored => simp [SameSequencer]
  | discarded => simp [SameSequencer]
  | completed len _ _ _ _ _ _ h =>
    obtain ⟨-, recs, hout, -⟩ := dispatch_work h
    refine absurd ?_ (hnone ((s.faBuf.set (len.toNat + 7) b).take (len.toNat + 8)))
    simp [hout, frameCompleted]

end Sys2Proof.Machine
end

section
/-! PROOFS. Complete frames (spec/40_frame_assembler.md R146, R147, R152): a buffer that holds a frame but for its last byte,
what the last byte then does, and that every COMPLETE frame is a built frame whose class's instruction runs (R250). -/

namespace Sys2Proof.Machine

/-! ## A buffer that holds all of a frame but the checksum -/

/-- The bytes of `frame dev num cmd pl` before its checksum (R100). -/
def frameHead (dev num cmd : Byte) (pl : List Byte) : List Byte :=
  [Config.pSync, Config.pSync, Config.pSync] ++ frameBody dev num cmd pl

section
variable (dev num cmd : Byte) (pl rest : List Byte)

theorem frame_eq_frameHead :
    frame dev num cmd pl = frameHead dev num cmd pl ++ [checksum (frameBody dev num cmd pl)] := rfl

@[simp] theorem frameHead_length : (frameHead dev num cmd pl).length = pl.length + 7 := by
  simp [frameHead, frameBody]

@[simp] theorem frameHead_len : (frameHead dev num cmd pl ++ rest)[3]? = some (BitVec.ofNat 8 pl.length) := rfl

@[simp] theorem frameHead_dev : (frameHead dev num cmd pl ++ rest).getD 4 0#8 = dev := rfl

@[simp] theorem frameHead_num : (frameHead dev num cmd pl ++ rest).getD 5 0#8 = num := rfl

@[simp] theorem frameHead_cmd : (frameHead dev num cmd pl ++ rest).getD 6 0#8 = cmd := rfl

@[simp] theorem bufPayload_frameHead : bufPayload pl.length (frameHead dev num cmd pl ++ rest) = pl := by
  simp [bufPayload, frameHead, frameBody]

@[simp] theorem bufChecksum_frameHead :
    bufChecksum pl.length (frameHead dev num cmd pl ++ rest) = checksum (frameBody dev num cmd pl) := by
  simp [bufChecksum, frameHead, frameBody]

theorem frameHead_set_last (x b : Byte) :
    (frameHead dev num cmd pl ++ x :: rest).set (pl.length + 7) b = frameHead dev num cmd pl ++ b :: rest := by
  rw [List.set_append_right _ _ (by simp), frameHead_length, Nat.sub_self, List.set_cons_zero]

theorem frameHead_take (b : Byte) :
    (frameHead dev num cmd pl ++ b :: rest).take (pl.length + 8) = frameHead dev num cmd pl ++ [b] := by
  rw [List.take_append, frameHead_length, List.take_of_length_le (by simp), Nat.add_sub_add_left]
  rfl

end

theorem length_toNat {pl : List Byte} (h : pl.length ≤ 255) : (BitVec.ofNat 8 pl.length).toNat = pl.length := by
  rw [BitVec.toNat_ofNat]
  exact Nat.mod_eq_of_lt (by omega)

/-! ## The last byte -/

/-- The assembler of the state `s` holds all of a frame but its checksum, and has room for it. -/
structure HoldsHead (dev num cmd : Byte) (pl : List Byte) (s : State) : Prop where
  buf : ∃ x rest, s.faBuf = frameHead dev num cmd pl ++ x :: rest
  pos : s.faPos = pl.length + 7
  room : pl.length + 8 ≤ s.params.bufSize
  short : pl.length ≤ 255

section
variable {dev num cmd b : Byte} {pl : List Byte} {s : State}

theorem HoldsHead.ingest_eq_lastByte (h : HoldsHead dev num cmd pl s) :
    ingest b s = lastByte pl.length (pl.length + 7) b s := by
  obtain ⟨⟨x, rest, hbuf⟩, hpos, hroom, hshort⟩ := h
  have hlen : s.faBuf[3]? = some (BitVec.ofNat 8 pl.length) := by rw [hbuf, frameHead_len]
  rw [ingest_last (by omega) hlen (by rw [length_toNat hshort, hpos]), length_toNat hshort, hpos]

/-- The frame's own checksum completes it (R146). -/
theorem HoldsHead.ingest_good (h : HoldsHead dev num cmd pl s) (hb : b = checksum (frameBody dev num cmd pl)) :
    ingest b s =
      dispatch dev num cmd pl
        { s with
          faBuf := s.faBuf.set s.faPos b, faPos := 0, outp := s.outp ++ [.frame (.complete (frame dev num cmd pl))] } := by
  rw [h.ingest_eq_lastByte]
  obtain ⟨⟨x, rest, hbuf⟩, hpos, -, -⟩ := h
  rw [lastByte_good (by rw [hbuf, bufChecksum_frameHead, hb]), hbuf, frameHead_set_last, frameHead_take, hpos,
    frameHead_set_last, frame_eq_frameHead, hb, frameHead_dev, frameHead_num, frameHead_cmd, bufPayload_frameHead]

/-- Any other byte has it discarded (R147). -/
theorem HoldsHead.ingest_bad (h : HoldsHead dev num cmd pl s) (hb : b ≠ checksum (frameBody dev num cmd pl)) :
    ingest b s =
      .next { s with
        faBuf := s.faBuf.set (pl.length + 7) b, faPos := 0,
        outp := s.outp ++
          [.frame (.discard .badCsum), logRecord (.csumErr (checksum (frameBody dev num cmd pl)) b)] } := by
  rw [h.ingest_eq_lastByte]
  obtain ⟨⟨x, rest, hbuf⟩, -, -, -⟩ := h
  have hsum : bufChecksum pl.length s.faBuf = checksum (frameBody dev num cmd pl) := by rw [hbuf, bufChecksum_frameHead]
  rw [lastByte_bad (by rw [hsum]; exact Ne.symm hb), hsum]

end

/-! ## Every complete frame is a built frame -/

/-- A buffer that begins with three sync bytes and LEN, and is long enough, holds the head of a frame (R100, R152). -/
theorem exists_frameHead {buf : List Byte} {len : Byte} (hsync : ∀ i < 3, buf[i]? = some Config.pSync)
    (hlen : buf[3]? = some len) (hlong : len.toNat + 8 ≤ buf.length) :
    ∃ dev num cmd pl x rest, buf = frameHead dev num cmd pl ++ x :: rest ∧ pl.length = len.toNat := by
  have h0 := hsync 0 (by decide)
  have h1 := hsync 1 (by decide)
  have h2 := hsync 2 (by decide)
  match buf, h0, h1, h2, hlen, hlong with
  | b0 :: b1 :: b2 :: b3 :: dev :: num :: cmd :: tail, h0, h1, h2, h3, hlong =>
    simp only [List.length_cons] at hlong
    have hlt : len.toNat < tail.length := by omega
    have hpl : (tail.take len.toNat).length = len.toNat := by
      rw [List.length_take]
      omega
    refine ⟨dev, num, cmd, tail.take len.toNat, tail[len.toNat], tail.drop (len.toNat + 1), ?_, hpl⟩
    simp_all [frameHead, frameBody]

theorem getD_of_getElem? {α : Type} {l : List α} {i : Nat} {x d : α} (h : l[i]? = some x) : l.getD i d = x := by
  rw [List.getD_eq_getElem?_getD, h, Option.getD_some]

/-- Settles O27: a completed frame's bytes are the head that the buffer holds, and the checksum over it. -/
theorem completeFramesAreValid : Obligations.CompleteFramesAreValid := by
  intro b bytes recs s t hinv hl h hout
  obtain ⟨⟨hbuf, -⟩, -, ⟨-, hsync, hbody⟩, -⟩ := hinv.2 hl
  obtain ⟨-, hin⟩ := execRxByte_next h
  cases hin with
  | stored => simp at hout
  | discarded => simp at hout
  | completed len _ hpos hroom hlen hlast hsum h =>
    obtain ⟨-, recs', hwork, -⟩ := dispatch_work h
    simp only [rearm_faPos, rearm_faBuf, rearm_params] at hpos hroom hlen hlast hsum
    obtain ⟨dev, num, cmd, pl, x, rest, hhead, hpl⟩ :=
      exists_frameHead (fun i hi => hsync i hi (by omega)) hlen (by omega)
    refine ⟨dev, num, cmd, pl, ?_, ?_⟩
    · rw [hout] at hwork
      obtain ⟨hbytes, -⟩ : bytes = (s.faBuf.set (pl.length + 7) b).take (pl.length + 8) ∧ recs = recs' := by
        simpa [frameCompleted, hpl] using hwork
      rw [← hpl, hhead, bufChecksum_frameHead] at hsum
      rw [hbytes, hhead, frameHead_set_last, frameHead_take, frame_eq_frameHead, hsum]
    · obtain ⟨hmax, -⟩ := hbody hpos
      rwa [getD_of_getElem? hlen, ← hpl] at hmax

/-- What decodes as an inbound frame has a parse. -/
theorem parseFrame_of_decodeInbound {p : Params} {bytes : List Byte} {i : Instr} (h : decodeInbound p bytes = .ok i) :
    ∃ f, parseFrame bytes = .ok f := by
  cases hf : parseFrame bytes with
  | error e => simp [decodeInbound, hf] at h
  | ok f => exact ⟨f, rfl⟩

/-- On a live block the instruction of a validated frame's class is the frame's dispatch (R250). -/
theorem exec_of_classified {p : Params} {f : FrameFields} {i : Instr} {s : State} (hp : s.params = p)
    (hl : s.sysLive = true) (hpl : WellFormed.inboundPayload p f.pl = true) (hclass : classifyInbound p f = .ok i) :
    exec i s = dispatch f.dev f.num f.cmd f.pl s := by
  subst hp
  rw [exec_of_classifyInbound hclass, receive_eq_dispatch hl hpl]

/-- Settles O25: the buffer holds the head of the frame that decodes and the byte is its checksum, so the frame is
dispatched; and the instruction of its class is that dispatch. -/
theorem completedFrameRunsItsInstruction : Obligations.CompletedFrameRunsItsInstruction := by
  intro b i s hinv hl hdec
  obtain ⟨⟨hbuf, -⟩, -, ⟨hposmax, -⟩, -⟩ := hinv.2 hl
  obtain ⟨⟨dev, num, cmd, pl⟩, hf⟩ := parseFrame_of_decodeInbound hdec
  obtain ⟨hpl, hclass⟩ := decodeInbound_eq_ok hf hdec
  obtain ⟨hbytes, hshort⟩ := frame_of_parseFrame hf
  obtain ⟨htake, hb⟩ : s.faBuf.take s.faPos = frameHead dev num cmd pl ∧ [b] = [checksum (frameBody dev num cmd pl)] :=
    List.append_inj' hbytes rfl
  have hpos : s.faPos = pl.length + 7 := by
    rw [← frameHead_length dev num cmd pl, ← htake, List.length_take]
    omega
  have hsize : pl.length ≤ s.params.maxInv ∧ pl.length + 8 ≤ s.params.bufSize := by
    simpa [WellFormed.inboundPayload] using hpl
  have hhead : HoldsHead dev num cmd pl (rearm s) := by
    refine ⟨⟨s.faBuf[s.faPos]'(by omega), s.faBuf.drop (s.faPos + 1), ?_⟩, hpos, hsize.2, hshort⟩
    rw [← htake, List.cons_getElem_drop_succ, List.take_append_drop]
    rfl
  rw [exec_rxByte hl, hhead.ingest_good (List.singleton_inj.1 hb), hbytes]
  refine (exec_of_classified ?params ?live hpl hclass).symm
  case params => rfl
  case live => exact hl

end Sys2Proof.Machine
end

section
/-! PROOFS. The reception of a whole frame byte by byte (spec/40_frame_assembler.md R140 to R146), by induction over the bytes
before the checksum, and the detection of a single wrong byte (R153). -/

namespace Sys2Proof.Machine

/-! ## Feeding bytes -/

theorem feed_append_singleton {l : List Byte} {b : Byte} {s t : State} (h : feed l s = .next t) :
    feed (l ++ [b]) s = execRxByte b t := by
  induction l generalizing s with
  | nil =>
    cases h
    simp only [List.nil_append, feed]
    cases execRxByte b t <;> rfl
  | cons x xs ih =>
    rw [List.cons_append, feed]
    rw [feed] at h
    cases hx : execRxByte x s with
    | next u =>
      simp only [hx] at h
      exact ih h
    | fault | refused => simp [hx] at h

/-- The watchdog's re-arming by the first byte can be done before it. -/
theorem feed_rearm {l : List Byte} (hl : l ≠ []) (s : State) : feed l (rearm s) = feed l s := by
  cases l with
  | nil => exact absurd rfl hl
  | cons b bs => rfl

/-- A byte that belongs to the candidate frame is stored (R141, R143, R145). -/
theorem Belongs.ingest {b : Byte} {s : State} (h : Belongs b s) :
    ingest b s = .next (emit (.frame .continued) (storeByte s.faPos b s)) := by
  cases h with
  | sync hpos hb => rw [ingest_sync hpos, hb, syncByte_match]
  | length hpos hroom hb => rw [ingest_length hpos (hpos ▸ hroom), lengthByte_accepted hb, hpos]
  | body len hpos hroom hlen hlast => exact ingest_body hpos hroom hlen hlast

/-! ## The head of a frame arrives -/

/-- The state `s`, awaiting a sync byte, after the bytes `l` of a candidate frame have been stored. -/
def received (l : List Byte) (s : State) : State :=
  { s with
    wdLastRx := s.now, wdReported := false, faPos := l.length, faBuf := l ++ s.faBuf.drop l.length,
    outp := s.outp ++ List.replicate l.length (.frame .continued) }

theorem received_nil {s : State} (h : s.faPos = 0) : received [] s = rearm s := by
  simp [received, rearm, h]

/-- One more byte stored. -/
theorem received_append_singleton {l : List Byte} {b : Byte} {s : State} (h : l.length < s.faBuf.length) :
    emit (.frame .continued) (storeByte (received l s).faPos b (received l s)) = received (l ++ [b]) s := by
  have hbuf : (l ++ s.faBuf.drop l.length).set l.length b = l ++ b :: s.faBuf.drop (l.length + 1) := by
    rw [List.set_append_right _ _ (Nat.le_refl _), Nat.sub_self, List.drop_eq_getElem_cons h, List.set_cons_zero]
  simp only [received, emit, storeByte, hbuf, List.length_append, List.length_singleton, List.replicate_succ',
    List.append_assoc, List.singleton_append]

section
variable {dev num cmd : Byte} {pl : List Byte} {s : State}

/-- Each byte of a frame's head belongs to the candidate that the bytes before it make up. -/
theorem belongs_frameHead {n : Nat} (hn : n < (frameHead dev num cmd pl).length) (hmax : pl.length ≤ s.params.maxInv)
    (hsize : pl.length + 8 ≤ s.params.bufSize) (hshort : pl.length ≤ 255) :
    Belongs (frameHead dev num cmd pl)[n] (received ((frameHead dev num cmd pl).take n) s) := by
  have hlen := length_toNat hshort
  have hn' : n < pl.length + 7 := by simpa using hn
  have hpos : (received ((frameHead dev num cmd pl).take n) s).faPos = n := by
    simp only [received, List.length_take]
    omega
  rcases Nat.lt_trichotomy n 3 with h3 | rfl | h3
  · refine .sync (by omega) ?_
    have : n = 0 ∨ n = 1 ∨ n = 2 := by omega
    rcases this with rfl | rfl | rfl <;> rfl
  · exact .length hpos (by rw [hpos]; exact Nat.lt_of_lt_of_le (by omega) hsize) (by simpa [frameHead, frameBody, hlen])
  · refine .body (BitVec.ofNat 8 pl.length) (by omega) (by rw [hpos]; exact Nat.lt_of_lt_of_le (by omega) hsize) ?_
      (by omega)
    have htake : 3 < ((frameHead dev num cmd pl).take n).length := by
      rw [List.length_take]
      omega
    simp only [received]
    rw [List.getElem?_append_left htake, List.getElem?_take_of_lt h3]
    rfl

/-- The head of a frame is stored byte by byte, with CONTINUE for each (R141 to R145). -/
theorem feed_take_frameHead (hl : s.sysLive = true) (hbuf : s.faBuf.length = s.params.bufSize) (hpos : s.faPos = 0)
    (hmax : pl.length ≤ s.params.maxInv) (hsize : pl.length + 8 ≤ s.params.bufSize) (hshort : pl.length ≤ 255) (n : Nat)
    (hn : n ≤ (frameHead dev num cmd pl).length) :
    feed ((frameHead dev num cmd pl).take n) (rearm s) = .next (received ((frameHead dev num cmd pl).take n) s) := by
  induction n with
  | zero => rw [List.take_zero, received_nil hpos, feed]
  | succ n ih =>
    have hlt : n < (frameHead dev num cmd pl).length := hn
    have hroom : ((frameHead dev num cmd pl).take n).length < s.faBuf.length := by
      rw [List.length_take, frameHead_length, hbuf]
      omega
    rw [List.take_succ_eq_append_getElem hlt, feed_append_singleton (ih (Nat.le_of_succ_le hn)),
      ← received_append_singleton hroom]
    calc execRxByte (frameHead dev num cmd pl)[n] (received ((frameHead dev num cmd pl).take n) s)
      _ = ingest (frameHead dev num cmd pl)[n] (received ((frameHead dev num cmd pl).take n) s) := whenLive_of_live hl
      _ = _ := (belongs_frameHead hlt hmax hsize hshort).ingest

/-- A frame's head and one more byte: that byte arrives where the buffer holds the head (R146). -/
theorem feed_frameHead_append (hinv : s.Inv) (hl : s.sysLive = true) (hpos : s.faPos = 0)
    (hmax : pl.length ≤ s.params.maxInv) (hsize : pl.length + 8 ≤ s.params.bufSize) (b : Byte) :
    HoldsHead dev num cmd pl (received (frameHead dev num cmd pl) s) ∧
      feed (frameHead dev num cmd pl ++ [b]) s = ingest b (received (frameHead dev num cmd pl) s) := by
  obtain ⟨⟨-, hmax255, -⟩, hlive⟩ := hinv
  obtain ⟨⟨hbuf, -⟩, -⟩ := hlive hl
  have hshort : pl.length ≤ 255 := hmax.trans hmax255
  have hlt : pl.length + 7 < s.faBuf.length := by omega
  constructor
  · refine ⟨⟨s.faBuf[pl.length + 7], s.faBuf.drop (pl.length + 8), ?_⟩, frameHead_length .., hsize, hshort⟩
    rw [← List.drop_eq_getElem_cons hlt, ← frameHead_length dev num cmd pl]
    rfl
  · have hhead := feed_take_frameHead (dev := dev) (num := num) (cmd := cmd) hl hbuf hpos hmax hsize hshort _
      (Nat.le_refl _)
    rw [List.take_length] at hhead
    rw [← feed_rearm (by simp), feed_append_singleton hhead]
    exact whenLive_of_live hl

end

/-- Settles O29: the head is stored byte by byte, and the checksum hands the frame over. -/
theorem frameReception : Obligations.FrameReception := by
  intro dev num cmd pl s hinv hl hpos hmax hsize
  obtain ⟨hhead, hfeed⟩ := feed_frameHead_append (dev := dev) (num := num) (cmd := cmd) hinv hl hpos hmax hsize
    (checksum (frameBody dev num cmd pl))
  have hbuf : (received (frameHead dev num cmd pl) s).faBuf.set (received (frameHead dev num cmd pl) s).faPos
      (checksum (frameBody dev num cmd pl)) = frame dev num cmd pl ++ s.faBuf.drop (pl.length + 8) := by
    obtain ⟨⟨x, rest, hrest⟩, hheadPos, -⟩ := hhead
    have hdrop : s.faBuf.drop (pl.length + 7) = x :: rest := by
      rw [← frameHead_length dev num cmd pl]
      exact List.append_cancel_left hrest
    have hnext : s.faBuf.drop (pl.length + 8) = rest := List.tail_drop.symm.trans (congrArg List.tail hdrop)
    rw [hrest, hheadPos, frameHead_set_last, frame_eq_frameHead, List.append_assoc, hnext]
    rfl
  rw [← hbuf, frame_eq_frameHead, hfeed, hhead.ingest_good rfl, frame_eq_frameHead]
  simp only [received, frameHead_length]

/-! ## A single wrong byte -/

/-- The checksum of a list changes with any one byte of it (R153). -/
theorem checksum_set_ne {l : List Byte} {j : Nat} {x : Byte} (hj : j < l.length) (hx : l[j]? ≠ some x) :
    checksum (l.set j x) ≠ checksum l := by
  induction l generalizing j with
  | nil => exact absurd hj (Nat.not_lt_zero _)
  | cons y ys ih =>
    cases j with
    | zero =>
      rw [List.set_cons_zero, checksum_cons, checksum_cons, Ne, BitVec.add_left_inj]
      rintro rfl
      exact hx rfl
    | succ j =>
      rw [List.set_cons_succ, checksum_cons, checksum_cons, Ne, BitVec.add_right_inj]
      exact ih (by simpa using hj) (by simpa using hx)

/-- A buffer's checksum changes with any one of the bytes it is taken over (R101). -/
theorem bufChecksum_set_ne {len k : Nat} {buf : List Byte} {x : Byte} (hmin : 3 ≤ k) (hmax : k < len + 7)
    (hk : k < buf.length) (hx : buf[k]? ≠ some x) : bufChecksum len (buf.set k x) ≠ bufChecksum len buf := by
  have hk' : 3 + (k - 3) = k := Nat.add_sub_of_le hmin
  rw [bufChecksum, List.drop_set, if_neg (by omega), List.take_set]
  refine checksum_set_ne ?_ ?_
  · rw [List.length_take, List.length_drop]
    omega
  · rwa [List.getElem?_take_of_lt (by omega), List.getElem?_drop, hk']

/-- A frame with one wrong byte behind its LEN is the head of another frame of that LEN and a byte that is not its
checksum (R153). -/
theorem frame_set_eq {dev num cmd x : Byte} {pl : List Byte} {k : Nat} (hshort : pl.length ≤ 255) (hmin : 4 ≤ k)
    (hmax : k ≤ pl.length + 7) (hx : (frame dev num cmd pl)[k]? ≠ some x) :
    ∃ dev' num' cmd' pl' b, (frame dev num cmd pl).set k x = frameHead dev' num' cmd' pl' ++ [b] ∧
      pl'.length = pl.length ∧ b ≠ checksum (frameBody dev' num' cmd' pl') := by
  have hlen := length_toNat hshort
  have hlow : ∀ i < 4, ((frame dev num cmd pl).set k x)[i]? = (frame dev num cmd pl)[i]? :=
    fun i hi => List.getElem?_set_ne (by omega)
  obtain ⟨dev', num', cmd', pl', b, rest, heq, hpl⟩ :=
    exists_frameHead (buf := (frame dev num cmd pl).set k x) (len := BitVec.ofNat 8 pl.length)
      (fun i hi => by
        rw [hlow i (by omega)]
        have : i = 0 ∨ i = 1 ∨ i = 2 := by omega
        rcases this with rfl | rfl | rfl <;> rfl)
      (by rw [hlow 3 (by decide)]; rfl) (by rw [List.length_set, frame_length, hlen])
  rw [hlen] at hpl
  have hrest : rest = [] := by
    have := congrArg List.length heq
    simp only [List.length_set, frame_length, List.length_append, frameHead_length, List.length_cons] at this
    exact List.eq_nil_of_length_eq_zero (by omega)
  subst hrest
  refine ⟨dev', num', cmd', pl', b, heq, hpl, ?_⟩
  have hsum : bufChecksum pl.length (frame dev num cmd pl) = checksum (frameBody dev num cmd pl) :=
    bufChecksum_frameHead ..
  have hsum' : bufChecksum pl.length ((frame dev num cmd pl).set k x) = checksum (frameBody dev' num' cmd' pl') := by
    rw [heq, ← hpl, bufChecksum_frameHead]
  have hlast : (frame dev num cmd pl)[pl.length + 7]? = some (checksum (frameBody dev num cmd pl)) := by
    rw [frame_eq_frameHead, ← frameHead_length dev num cmd pl, List.getElem?_concat_length]
  have hlast' : ((frame dev num cmd pl).set k x)[pl.length + 7]? = some b := by
    rw [heq, ← hpl, ← frameHead_length dev' num' cmd' pl', List.getElem?_concat_length]
  rw [← hsum']
  rcases Nat.lt_or_eq_of_le hmax with hk | rfl
  · rw [List.getElem?_set_ne (by omega), hlast, Option.some.injEq, ← hsum] at hlast'
    rw [← hlast']
    exact (bufChecksum_set_ne (by omega) hk (by rw [frame_length]; omega) hx).symm
  · rw [List.getElem?_set_self (by simp), Option.some.injEq] at hlast'
    rw [bufChecksum_set_last, hsum, ← hlast']
    rintro rfl
    exact hx hlast

/-- Settles O30: the wrong frame's head is stored as any, and its last byte is not the checksum. -/
theorem singleByteErrorsAreDetected : Obligations.SingleByteErrorsAreDetected := by
  intro dev num cmd x pl k s hinv hl hpos hmax hsize hk4 hk hx
  have ⟨⟨_, hmax255, _⟩, _⟩ := hinv
  obtain ⟨dev', num', cmd', pl', b, hset, hlen, hb⟩ := frame_set_eq (hmax.trans hmax255) hk4 hk hx
  rw [← hlen] at hmax hsize ⊢
  obtain ⟨hhead, hfeed⟩ := feed_frameHead_append (dev := dev') (num := num') (cmd := cmd') hinv hl hpos hmax hsize b
  refine ⟨_, checksum (frameBody dev' num' cmd' pl'), b, by rw [hset, hfeed, hhead.ingest_bad hb], ?_, rfl, ?_⟩
  · simp [SameSequencer, received]
  · simp only [received, frameHead_length]
    rfl

end Sys2Proof.Machine
end

section
/-! PROOFS. TICK (spec/43_command_sequencer.md R220 to R224): what it can do, the start of the next sequence (R222), and the
request that a state which meets the invariant is due to send (R223, R231, R233, R242). -/

namespace Sys2Proof.Machine

/-! ## What a TICK can do -/

/-- `u` comes from `s` by the start of a sequence, or is `s` with a sequence in progress (R222). -/
def Started (s u : State) : Prop :=
  ∃ c p1 p2 slot tail count,
    u = { s with
      sqCur := c, sqP1 := p1, sqP2 := p2, sqSeqComplete := false, sqValIdx := slot, qTail := tail, qCount := count }

theorem Started.refl {s : State} (h : s.sqSeqComplete = false) : Started s s :=
  ⟨s.sqCur, s.sqP1, s.sqP2, s.sqValIdx, s.qTail, s.qCount, by rw [← h]⟩

theorem sequenceStart_started {s u : State} (h : sequenceStart s = some u) : Started s u := by
  unfold sequenceStart at h
  split at h
  · split at h
    next e s' hd =>
      obtain ⟨-, rfl⟩ := dequeue_eq_some.1 hd
      cases h
      exact ⟨_, _, _, _, _, _, rfl⟩
    next => cases h
  · cases h
    exact ⟨_, _, _, _, _, _, rfl⟩

/-- A TICK with no request outstanding commits one (R220, R223, R224). -/
theorem issueNext_next {dom : BitVec 5} {s t : State} (h : issueNext dom s = .next t) :
    ∃ u dev num cmd pl, Started s u ∧ t = commit dev num cmd pl u := by
  unfold issueNext at h
  split at h
  · split at h
    next u hu =>
      obtain ⟨-, dev, num, cmd, pl, rfl⟩ := issue_next h
      exact ⟨u, dev, num, cmd, pl, sequenceStart_started hu, rfl⟩
    next => cases h
  next hs =>
    obtain ⟨-, dev, num, cmd, pl, rfl⟩ := issue_next h
    exact ⟨s, dev, num, cmd, pl, Started.refl (Bool.eq_false_iff.2 hs), rfl⟩

/-- What a TICK can do: with a request outstanding it checks the deadline, else it sends the next one, after its watchdog
(R220). -/
theorem execTick_next {dom : BitVec 5} {s t : State} (h : execTick dom s = .next t) :
    s.sysLive = true ∧
      ((s.sqAwaiting = true ∧ timeoutCheck (watchdog s) = .next t) ∨
        (s.sqAwaiting = false ∧ issueNext dom (watchdog s) = .next t)) := by
  obtain ⟨hl, h⟩ := whenLive_next.1 h
  have hw : (watchdog s).sqAwaiting = s.sqAwaiting := by rw [watchdog_eq]
  split at h
  · cases h
  unfold sequencerTick at h
  rw [hw] at h
  split at h
  next hwait => exact ⟨hl, .inl ⟨hwait, h⟩⟩
  next hwait => exact ⟨hl, .inr ⟨Bool.eq_false_iff.2 hwait, h⟩⟩

/-- Before the deadline the wait goes on (R221). -/
theorem timeoutCheck_waiting {s : State} (h : (s.now - s.sqSendTime).toNat < 2000) : timeoutCheck s = .next s :=
  if_neg (Nat.not_le.2 h)

/-- Settles O43: after the watchdog the TICK finds the deadline not reached. -/
theorem tickWaitsForReply : Obligations.TickWaitsForReply := by
  intro dom s hl hd hw hearly
  rw [exec_tick_awaiting hl hd hw, timeoutCheck_waiting (by rwa [watchdog_eq]), watchdog_eq]

/-- A TICK with no request outstanding issues the next one after the watchdog (R220). -/
theorem exec_tick_idle {dom : BitVec 5} {s : State} (hl : s.sysLive = true) (hd : dom ≠ 0#5)
    (hw : s.sqAwaiting = false) : exec (.tick dom) s = issueNext dom (watchdog s) := by
  have hw' : ¬ (watchdog s).sqAwaiting = true := by rw [watchdog_eq, hw]; exact Bool.false_ne_true
  calc exec (.tick dom) s = sequencerTick dom (watchdog s) := (whenLive_of_live hl).trans (if_neg hd)
    _ = issueNext dom (watchdog s) := if_neg hw'

/-- With a sequence in progress that is its next request (R223). -/
theorem exec_tick_inSequence {dom : BitVec 5} {s : State} (hl : s.sysLive = true) (hd : dom ≠ 0#5)
    (hw : s.sqAwaiting = false) (hs : s.sqSeqComplete = false) : exec (.tick dom) s = issue dom (watchdog s) := by
  have hs' : ¬ (watchdog s).sqSeqComplete = true := by rw [watchdog_eq, hs]; exact Bool.false_ne_true
  exact (exec_tick_idle hl hd hw).trans (if_neg hs')

/-! ## The start of a sequence -/

section
variable {s : State}

/-- A queued command comes first (R222, R302). -/
theorem sequenceStart_queued {e : QEntry} (hc : 0 < s.qCount) (he : s.qEnt[s.qTail]? = some e) :
    sequenceStart s =
      some (beginSequence e.kind.cmd e.p1 e.p2
        { s with qTail := (s.qTail + 1) % s.params.qCap, qCount := s.qCount - 1 }) := by
  simp only [sequenceStart, if_pos hc, dequeue_eq_some.2 ⟨he, rfl⟩]

/-- With the queue empty it is the idle command (R222, R37). -/
theorem sequenceStart_idle (hc : s.qCount = 0) :
    sequenceStart s = some (beginSequence s.sqIdleNext.cmd none none s) := by
  rw [sequenceStart, if_neg (by omega)]

theorem issueNext_start {dom : BitVec 5} {u : State} (hs : s.sqSeqComplete = true) (hu : sequenceStart s = some u) :
    issueNext dom s = issue dom u := by
  rw [issueNext, if_pos hs, hu]

end

theorem State.Inv.queueWf {s : State} (h : s.Inv) (hl : s.sysLive = true) :
    s.QueueWf ∧ s.qEnt.length = s.params.qCap := by
  obtain ⟨⟨-, -, -, -, -, -, hlen⟩, -, -, -, -, hq⟩ := h.2 hl
  exact ⟨hq, hlen⟩

/-- Settles O41: the TICK starts the sequence after its watchdog, the one it is compared with finds that sequence in
progress, and neither the watchdog nor the start reads what the other writes. -/
theorem tickStartsNextSequence : Obligations.TickStartsNextSequence := by
  intro dom s hinv hl hd hw hs
  obtain ⟨hq, hlen⟩ := hinv.queueWf hl
  have hs' : (watchdog s).sqSeqComplete = true := by rw [watchdog_eq, hs]
  constructor
  · intro e rest hqueued
    have hc : 0 < s.qCount := by
      rcases Nat.eq_zero_or_pos s.qCount with h0 | hpos
      · simp [queued, h0] at hqueued
      · exact hpos
    rw [queued_eq_cons hq hc, List.cons.injEq] at hqueued
    have hstart := sequenceStart_queued (s := watchdog s) (e := e) (by rwa [watchdog_eq])
      (by rw [watchdog_eq]; exact hqueued.1)
    refine ((exec_tick_idle hl hd hw).trans (issueNext_start hs' hstart)).trans ?_
    refine .trans ?_ (exec_tick_inSequence ?live hd ?idle ?inSequence).symm
    case live => exact hl
    case idle => exact hw
    case inSequence => rfl
    rw [watchdog_eq, watchdog_eq]
    rfl
  · intro hc
    have hstart := sequenceStart_idle (s := watchdog s) (by rwa [watchdog_eq])
    refine ((exec_tick_idle hl hd hw).trans (issueNext_start hs' hstart)).trans ?_
    refine .trans ?_ (exec_tick_inSequence ?live hd ?idle ?inSequence).symm
    case live => exact hl
    case idle => exact hw
    case inSequence => rfl
    rw [watchdog_eq, watchdog_eq]
    rfl

/-! ## The request that is due -/

section
variable {s : State}

theorem aefP1_eq (dom : BitVec 5) (s : State) :
    aefP1 dom s =
      match s.sqP1 with
      | some b => b
      | none => if 1 < s.cfgInvCount.toNat then BitVec.ofNat 8 dom.toNat else s.params.aefP1Single := by
  unfold aefP1 multiInverter
  cases s.sqP1 with
  | some b => rfl
  | none =>
    simp only [decide_eq_true_eq, BitVec.ofNat_toNat]

/-- With a sequence in progress, the request that is issued is the one that R223 selects. -/
theorem State.Inv.issue_eq (h : s.Inv) (hl : s.sysLive = true) (hs : s.sqSeqComplete = false) (dom : BitVec 5) :
    issue dom s = exec (pendingRequest dom s) s := by
  unfold issue pendingRequest
  cases hc : s.sqCur with
  | gv | gai => rfl
  | gdt =>
    simp only [h.devTarget hl]
    rfl
  | gval =>
    obtain ⟨hslot, hn⟩ := h.sweepPosition hl hc hs
    obtain ⟨htarget, -⟩ := h.valTarget hl hn
    simp only [htarget, issueValue_eq s.sqValIdx _ s rfl hslot, exec_txGetval s.sqValIdx hslot]
  | aef =>
    simp only [aefP1_eq]
    rfl

/-- That request is committed with the CMD byte of the sequence, and a GetValues request goes to the inverter under the
cursor (R224, R233). -/
theorem State.Inv.issue_commits (h : s.Inv) (hl : s.sysLive = true) (hs : s.sqSeqComplete = false) (dom : BitVec 5) :
    ∃ dev num pl, issue dom s = .next (commit dev num (requestCmd s.params s.sqValIdx s.sqCur) pl s) ∧
      (s.sqCur = .gval → Machine.valTarget s = some num) := by
  unfold issue
  cases hc : s.sqCur with
  | gv | gai | aef => exact ⟨_, _, _, whenLive_of_live hl, by simp⟩
  | gdt =>
    simp only [h.devTarget hl]
    exact ⟨_, _, _, whenLive_of_live hl, by simp⟩
  | gval =>
    obtain ⟨hslot, hn⟩ := h.sweepPosition hl hc hs
    obtain ⟨htarget, -⟩ := h.valTarget hl hn
    simp only [htarget, issueValue_eq s.sqValIdx _ s rfl hslot]
    exact ⟨_, _, _, whenLive_of_live hl, fun _ => rfl⟩

end

/-- The watchdog writes no field that the invariant reads. -/
theorem State.Inv.watchdog {s : State} (h : s.Inv) : (Machine.watchdog s).Inv := by
  rw [watchdog_eq]
  exact h

/-- Settles O40: after the watchdog the TICK issues, and the invariant makes every target and slot that R223 reads a real
one. -/
theorem tickRunsPendingRequest : Obligations.TickRunsPendingRequest := by
  intro dom s hinv hl hd hw hs
  rw [exec_tick_inSequence hl hd hw hs,
    hinv.watchdog.issue_eq (by rwa [watchdog_eq]) (by rwa [watchdog_eq]) dom, watchdog_eq]
  rfl

end Sys2Proof.Machine
end

section
/-! PROOFS. The invariant of spec/10_state.md R51 operation by operation: every operation of the sequencer, the queue and the
assembler keeps it, so every transaction does; and under it every legal transaction completes (spec/60_exceptions.md R335). -/

namespace Sys2Proof.Machine

/-! ## Operations that write nothing the invariant reads -/

section
variable {s : State}

theorem State.Inv.log (h : s.Inv) (e : Event) : (Machine.log e s).Inv := h

theorem State.Inv.logOpt (h : s.Inv) (e : Option Event) : (Machine.logOpt e s).Inv := by
  cases e with
  | none => exact h
  | some e => exact h.log e

theorem State.Inv.warnZero (h : s.Inv) (pl : List Byte) : (Machine.warnZero pl s).Inv := by
  rw [warnZero_eq]
  exact h

theorem State.Inv.rearm (h : s.Inv) : (Machine.rearm s).Inv := h

/-! ## The sequencer's operations -/

/-- With no request outstanding the sequencer's invariant is only about its position (R51 items 2 and 9). -/
theorem sequencerWf_of_not_awaiting (hw : s.sqAwaiting = false) (hslot : s.sqValIdx ≤ Config.pNSlots)
    (hidle : s.sqIdleNext = .gval → 0 < s.sqNActive)
    (hsweep : s.sqCur = .gval → s.sqSeqComplete = false → s.sqValIdx < Config.pNSlots ∧ 0 < s.sqNActive) :
    s.SequencerWf := by
  have hne : s.sqAwaiting ≠ true := Bool.eq_false_iff.1 hw
  exact ⟨hslot, hidle, fun h => absurd h hne, hsweep, fun h => absurd h hne, fun h => absurd h hne⟩

theorem State.Inv.clearAwaiting (h : s.Inv) : (Machine.clearAwaiting s).Inv := by
  refine ⟨h.1, fun hl => ?_⟩
  obtain ⟨ha, hc, hf, hd, ⟨hslot, hidle, -, hsweep, -, -⟩, hq⟩ := h.2 hl
  exact ⟨ha, hc, hf, hd, sequencerWf_of_not_awaiting rfl hslot hidle hsweep, hq⟩

theorem State.Inv.storeEntry (h : s.Inv) (a : Byte) (k : Nat) (v : BitVec 64) (c : BitVec 2) :
    (Machine.storeEntry a k v c s).Inv := by
  refine ⟨h.1, fun hl => ?_⟩
  obtain ⟨ha, hrest⟩ := h.2 hl
  exact ⟨storeEntry_arraysWf ha, hrest⟩

/-- A sequence begins between two exchanges; GetValues only with an inverter known (R222, R51 item 2). -/
theorem State.Inv.beginSequence (h : s.Inv) (hw : s.sqAwaiting = false) {c : CmdKind} (hc : c = .gval → 0 < s.sqNActive)
    (p1 p2 : Option Byte) : (Machine.beginSequence c p1 p2 s).Inv := by
  refine ⟨h.1, fun hl => ?_⟩
  obtain ⟨ha, hcfg, hf, hd, ⟨-, hidle, -, -, -, -⟩, hq⟩ := h.2 hl
  exact ⟨ha, hcfg, hf, hd, sequencerWf_of_not_awaiting hw (Nat.zero_le _) hidle
    fun hg _ => ⟨Nat.zero_lt_succ _, hc hg⟩, hq⟩

/-- The commit records the request of the sequence in progress (R224). -/
theorem State.Inv.commit (h : s.Inv) (hs : s.sqSeqComplete = false) {num : Byte}
    (hnum : s.sqCur = .gval → Machine.valTarget s = some num) (dev : Byte) (pl : List Byte) :
    (Machine.commit dev num (requestCmd s.params s.sqValIdx s.sqCur) pl s).Inv := by
  refine ⟨h.1, fun hl => ?_⟩
  obtain ⟨ha, hc, hf, hd, ⟨hslot, hidle, -, hsweep, -, -⟩, hq⟩ := h.2 hl
  exact ⟨ha, hc, hf, hd, ⟨hslot, hidle, fun _ => hs, hsweep, fun _ => rfl, fun _ => hnum⟩, hq⟩

/-- The commit of a discovery: the addresses of the reply are the known inverters (R264, R51 items 3 and 4). -/
theorem State.Inv.commitDiscovery (h : s.Inv) (hw : s.sqAwaiting = false) (hc : s.sqCur = .gai) {addrs : List Byte}
    (hlen : addrs.length ≤ s.params.maxInv)
    (hrange : ∀ a ∈ addrs, 1 ≤ a.toNat ∧ a.toNat ≤ s.cfgInvCount.toNat) : (Machine.commitDiscovery addrs s).Inv := by
  refine ⟨h.1, fun hl => ?_⟩
  obtain ⟨ha, hcfg, hf, -, ⟨hslot, -⟩, hq⟩ := h.2 hl
  refine ⟨commitDiscovery_arraysWf ha hlen, hcfg, hf, ⟨hlen, ?inRange, ?empty, ?addresses⟩,
    sequencerWf_of_not_awaiting hw hslot ?idle fun hg => ?sweep, hq⟩
  case inRange =>
    intro hpos
    simp only [Machine.commitDiscovery] at hpos ⊢
    split <;> omega
  case empty =>
    intro hzero
    simp only [Machine.commitDiscovery] at hzero ⊢
    split <;> omega
  case addresses =>
    intro i hi
    have hget : (addrs ++ s.sqActive.drop addrs.length).getD i 0#8 = addrs[i] := by
      rw [List.getD_append _ _ _ _ hi, List.getD_eq_getElem _ _ hi]
    simp only [Machine.commitDiscovery, hget]
    exact hrange _ (List.getElem_mem hi)
  case idle =>
    intro hidle
    by_contra hpos
    exact absurd hidle (by simp [Machine.commitDiscovery, show ¬ 0 < addrs.length from hpos])
  case sweep => exact absurd (hc.symm.trans hg) (by decide)

/-- The end of an exchange, the wait for its reply over (R270 to R272): a sweep stays in its range, and its end moves the
cursor round the list. -/
theorem State.Inv.stepDone_next (h : s.Inv) (hl : s.sysLive = true) (hw : s.sqAwaiting = false)
    (hs : s.sqSeqComplete = false) {ok : Bool} {t : State} (hd : Machine.stepDone ok s = .next t) : t.Inv := by
  obtain ⟨ha, hcfg, hf, hdisc, ⟨hslot, hidle, -, hsweep, -⟩, hq⟩ := h.2 hl
  have ended {u : State} (hu : u.sqSeqComplete = true) :
      u.sqCur = .gval → u.sqSeqComplete = false → u.sqValIdx < Config.pNSlots ∧ 0 < u.sqNActive :=
    fun _ hu' => absurd (hu.symm.trans hu') (by decide)
  rcases Machine.stepDone_next hd with
    ⟨hc, h9, rfl⟩ | ⟨-, -, a, values, -, -, hn, rfl⟩ | ⟨-, rfl⟩ | ⟨-, rfl⟩ | ⟨-, rfl⟩
  · obtain ⟨hlt, hpos⟩ := hsweep hc hs
    have hlt' : s.sqValIdx + 1 < Config.pNSlots := Nat.lt_of_le_of_ne hlt h9
    exact ⟨h.1, fun _ => ⟨ha, hcfg, hf, hdisc, sequencerWf_of_not_awaiting hw (Nat.le_of_lt hlt') hidle
      fun _ _ => ⟨hlt', hpos⟩, hq⟩⟩
  · obtain ⟨hmax, -, -, hrange⟩ := hdisc
    exact ⟨h.1, fun _ => ⟨ha, hcfg, hf, ⟨hmax, fun hpos => Nat.mod_lt _ hpos, fun h0 => absurd h0 hn, hrange⟩,
      sequencerWf_of_not_awaiting hw (Nat.le_refl _) (fun hg => by cases hg) (ended rfl), hq⟩⟩
  · exact ⟨h.1, fun _ => ⟨ha, hcfg, hf, hdisc,
      sequencerWf_of_not_awaiting hw hslot hidle (ended rfl), hq⟩⟩
  · have hidle' : (if ok then s.sqIdleNext else .gai) = IdleKind.gval → 0 < s.sqNActive := by
      cases ok with
      | true => exact hidle
      | false => exact fun hg => by cases hg
    exact ⟨h.1, fun _ => ⟨ha, hcfg, hf, hdisc,
      sequencerWf_of_not_awaiting hw hslot hidle' (ended rfl), hq⟩⟩
  · exact ⟨h.1, fun _ => ⟨ha, hcfg, hf, hdisc,
      sequencerWf_of_not_awaiting hw hslot hidle (ended rfl), hq⟩⟩

end

/-! ## The dispatch of a frame -/

section
variable {s t : State}

/-- The deadline check (R221, R273). -/
theorem State.Inv.timeoutCheck (h : s.Inv) (hl : s.sysLive = true) (hw : s.sqAwaiting = true)
    (ht : Machine.timeoutCheck s = .next t) : t.Inv := by
  have hs := h.sqSeqComplete_of_awaiting hl hw
  unfold Machine.timeoutCheck at ht
  split at ht
  · exact (h.log _).clearAwaiting.stepDone_next hl rfl hs ht
  · cases ht
    exact h

theorem State.Inv.errorResponse (h : s.Inv) (hl : s.sysLive = true) {num : Byte}
    (ht : Machine.errorResponse num s = .next t) : t.Inv := by
  unfold Machine.errorResponse at ht
  split at ht
  next hans =>
    simp only [answersRequest, Bool.and_eq_true] at hans
    exact h.clearAwaiting.stepDone_next hl rfl (h.sqSeqComplete_of_awaiting hl hans.1) ht
  next =>
    cases ht
    exact h

theorem normAddr_pos (b : Byte) : 1 ≤ (normAddr b).toNat := by
  unfold normAddr
  split
  · decide
  · bv_omega

/-- The end of a discovery: the configuration check bounds the addresses that are committed (R263, R264). -/
theorem State.Inv.discoveryOutcome (h : s.Inv) (hl : s.sysLive = true) (hw : s.sqAwaiting = false)
    (hs : s.sqSeqComplete = false) (hc : s.sqCur = .gai) {pl : List Byte} (hlen : pl.length ≤ s.params.maxInv)
    (ht : Machine.discoveryOutcome (pl.map normAddr) s = .next t) : t.Inv := by
  unfold Machine.discoveryOutcome at ht
  split at ht
  next => exact (h.log _).stepDone_next hl hw hs ht
  next hnone =>
    simp only [configOffender, List.find?_eq_none, decide_eq_true_eq, Nat.not_lt] at hnone
    refine (h.commitDiscovery hw hc (by simpa using hlen) fun a ha => ⟨?_, hnone a ha⟩).stepDone_next hl hw hs ht
    obtain ⟨b, -, rfl⟩ := List.mem_map.1 ha
    exact normAddr_pos b

/-- A matched reply, by the command of the current sequence (R250). -/
theorem State.Inv.matchedReply (h : s.Inv) (hl : s.sysLive = true) (hw : s.sqAwaiting = true) {num cmd : Byte}
    {pl : List Byte} (hlen : pl.length ≤ s.params.maxInv) (ht : Machine.matchedReply num cmd pl s = .next t) : t.Inv := by
  have hs := h.sqSeqComplete_of_awaiting hl hw
  have hclear := h.clearAwaiting
  have hend : ∀ {ok : Bool} (e : Event), Machine.stepDone ok (Machine.log e (Machine.clearAwaiting s)) = .next t → t.Inv :=
    fun e => (hclear.log e).stepDone_next hl rfl hs
  unfold Machine.matchedReply at ht
  cases hc : s.sqCur <;> simp only [hc] at ht
  case gv =>
    unfold versionReply at ht
    split at ht <;> exact hend _ ht
  case gdt =>
    unfold devtypeReply at ht
    split at ht <;> exact hend _ ht
  case gai =>
    unfold activeReply at ht
    split at ht
    next =>
      cases ht
      exact h.log _
    next =>
      refine (hclear.warnZero pl).discoveryOutcome ?live ?waiting ?inProgress ?discovery ?length ht
      case live => rw [warnZero_eq]; exact hl
      case waiting => rw [warnZero_eq]; rfl
      case inProgress => rw [warnZero_eq]; exact hs
      case discovery => rw [warnZero_eq]; exact hc
      case length => rw [warnZero_eq]; exact hlen
  case gval =>
    split at ht
    next =>
      unfold valueReply at ht
      split at ht
      next =>
        unfold storeValue at ht
        split at ht
        next =>
          refine (((hclear.logOpt _).logOpt _).storeEntry _ _ _ _).stepDone_next ?_ ?_ ?_ ht
          · simp [hl]
          · simp
          · simp [hs]
        next => cases ht
      next => exact hend _ ht
    next => cases ht
  case aef => exact hclear.stepDone_next hl rfl hs ht

theorem State.Inv.dispatch_next (h : s.Inv) (hl : s.sysLive = true) {dev num cmd : Byte} {pl : List Byte}
    (hlen : pl.length ≤ s.params.maxInv) (ht : Machine.dispatch dev num cmd pl s = .next t) : t.Inv := by
  unfold Machine.dispatch at ht
  split at ht
  next => exact (h.log _).errorResponse hl ht
  next =>
  split at ht
  next => exact (h.log _).errorResponse hl ht
  next =>
  split at ht
  next hm =>
    obtain ⟨hw, -, -⟩ := matchesRequest_iff.1 hm
    exact h.matchedReply hl hw hlen ht
  next =>
    cases ht
    exact h.log _

end

end Sys2Proof.Machine
end

section
/-! PROOFS. Every step keeps the invariant (spec/10_state.md R51), and under it every legal transaction completes
(spec/60_exceptions.md R335): the bytes, the ENQs and the TICK, each from the operations it is made of. -/

namespace Sys2Proof.Machine

section
variable {s t : State}

/-! ## The queue and the control transactions -/

theorem State.Inv.enqueue (h : s.Inv) (k : QKind) (p1 p2 : Option Byte) : (Machine.enqueue k p1 p2 s).Inv := by
  by_cases hcap : s.qCount = s.params.qCap
  · rw [enqueue_full hcap]
    exact h
  · have heq : Machine.enqueue k p1 p2 s = emit (.qresp .ok) _ := if_neg hcap
    refine ⟨by rw [heq]; exact h.1, fun hl => ?_⟩
    rw [heq] at hl
    obtain ⟨ha, hc, hf, hd, hs, hq⟩ := h.2 hl
    refine ⟨enqueue_arraysWf ha, ?_, ?_, ?_, ?_, enqueue_queueWf hq⟩ <;> rw [heq]
    exacts [hc, hf, hd, hs]

theorem State.Inv.setDebug (h : s.Inv) {level : BitVec 2} (hlevel : level ≠ 3#2) :
    State.Inv { s with cfgDebug := level } := by
  refine ⟨h.1, fun hl => ?_⟩
  obtain ⟨ha, ⟨hmin, hmax, -⟩, hrest⟩ := h.2 hl
  exact ⟨ha, ⟨hmin, hmax, hlevel⟩, hrest⟩

/-! ## The bytes of the serial line -/

/-- The assembler back at position 0, whatever its buffer holds (R51 item 8). -/
theorem State.Inv.atSync (h : s.Inv) {buf : List Byte} (hbuf : buf.length = s.faBuf.length) (errs : Word32)
    (recs : List Record) :
    State.Inv { s with faPos := 0, faSyncErrs := errs, faBuf := buf, outp := recs } := by
  refine ⟨h.1, fun hl => ?_⟩
  obtain ⟨⟨hlen, harrays⟩, hc, -, hrest⟩ := h.2 hl
  refine ⟨⟨hbuf.trans hlen, harrays⟩, hc, ⟨Nat.zero_le _, ?_, ?_⟩, hrest⟩
  · exact fun i _ hi => absurd hi (Nat.not_lt_zero i)
  · exact fun h4 => absurd h4 (show ¬ 4 ≤ 0 by decide)

/-- A byte that belongs to the candidate keeps it one (R141, R143, R145). -/
theorem State.AssemblerWf.storeByte {b : Byte} (h : s.AssemblerWf) (hb : Belongs b s)
    (hbuf : s.faBuf.length = s.params.bufSize) (hsize : 8 ≤ s.params.bufSize) :
    (Machine.storeByte s.faPos b s).AssemblerWf := by
  obtain ⟨-, hsync, hbody⟩ := h
  have hroom : s.faPos < s.params.bufSize := by
    cases hb with
    | sync hpos => omega
    | length _ hroom => exact hroom
    | body _ _ hroom => exact hroom
  refine ⟨hroom, fun i hi hle => ?_, fun h4 => ?_⟩
  · rw [storeByte_faBuf]
    rcases Nat.lt_or_eq_of_le (Nat.le_of_lt_succ hle) with hlt | rfl
    · rw [List.getElem?_set_ne (Nat.ne_of_gt hlt)]
      exact hsync i hi hlt
    · cases hb with
      | sync _ hb => rw [hb, List.getElem?_set_self (by omega)]
      | length hpos => omega
      | body _ hpos => omega
  · simp only [storeByte_faBuf, storeByte_faPos, storeByte_params] at h4 ⊢
    cases hb with
    | sync hpos => omega
    | length hpos _ hb =>
      have hget : (s.faBuf.set s.faPos b).getD 3 0#8 = b := by
        rw [hpos]
        exact getD_of_getElem? (List.getElem?_set_self (by omega))
      rw [hget]
      omega
    | body len hpos _ hlen hlast =>
      have hget : (s.faBuf.set s.faPos b).getD 3 0#8 = len :=
        getD_of_getElem? ((List.getElem?_set_ne (by omega)).trans hlen)
      obtain ⟨hmax, -⟩ := hbody hpos
      rw [getD_of_getElem? hlen] at hmax
      rw [hget]
      omega

theorem State.Inv.storeByte {b : Byte} (h : s.Inv) (hb : Belongs b s) : (Machine.storeByte s.faPos b s).Inv := by
  refine ⟨h.1, fun hl => ?_⟩
  obtain ⟨-, -, hsize, -⟩ := h.1
  obtain ⟨ha, hc, hf, hrest⟩ := h.2 hl
  exact ⟨storeByte_arraysWf ha, hc, hf.storeByte hb ha.1 hsize, hrest⟩

/-- Whatever a byte does keeps the invariant (R140 to R147). -/
theorem State.Inv.ingested {b : Byte} (h : s.Inv) (hl : s.sysLive = true) (hin : Ingested b s t) : t.Inv := by
  cases hin with
  | stored hb => exact h.storeByte hb
  | discarded _ errs buf recs hbuf => exact h.atSync hbuf errs _
  | completed len _ hpos hroom hlen hlast hsum hd =>
    obtain ⟨-, -, ⟨-, -, hbody⟩, -⟩ := h.2 hl
    obtain ⟨hmax, -⟩ := hbody hpos
    rw [getD_of_getElem? hlen] at hmax
    refine State.Inv.dispatch_next (s := frameCompleted len.toNat b s) ?_ hl ?_ hd
    · exact h.atSync (List.length_set ..) _ _
    · exact (List.length_take_le ..).trans hmax

/-! ## TICK -/

/-- The dequeued entry is gone, and the ring stays one (R302). -/
theorem State.Inv.dequeued (h : s.Inv) (hl : s.sysLive = true) (hc : 0 < s.qCount) :
    ∃ e, s.qEnt[s.qTail]? = some e ∧
      State.Inv { s with qTail := (s.qTail + 1) % s.params.qCap, qCount := s.qCount - 1 } := by
  obtain ⟨hq, hlen⟩ := h.queueWf hl
  obtain ⟨e, he, hd⟩ := dequeue_of_pos hq hlen
  refine ⟨e, he, h.1, fun _ => ?_⟩
  obtain ⟨ha, hcfg, hf, hdisc, hs, -⟩ := h.2 hl
  exact ⟨ha, hcfg, hf, hdisc, hs, dequeue_queueWf hq hc hd⟩

/-- A sequence can always be started, and GetValues only where an inverter is known (R222, R51 item 2). -/
theorem State.Inv.sequenceStart (h : s.Inv) (hl : s.sysLive = true) (hw : s.sqAwaiting = false) :
    ∃ u, Machine.sequenceStart s = some u ∧ u.Inv := by
  rcases Nat.eq_zero_or_pos s.qCount with h0 | hpos
  · refine ⟨_, sequenceStart_idle h0, h.beginSequence hw (fun hc => ?_) none none⟩
    obtain ⟨-, -, -, -, ⟨-, hidle, -⟩, -⟩ := h.2 hl
    refine hidle ?_
    cases hi : s.sqIdleNext with
    | gai => rw [hi] at hc; cases hc
    | gval => rfl
  · obtain ⟨e, he, hdeq⟩ := h.dequeued hl hpos
    refine ⟨_, sequenceStart_queued hpos he, hdeq.beginSequence hw (fun hc => ?_) e.p1 e.p2⟩
    cases hk : e.kind <;> rw [hk] at hc <;> cases hc

/-- With no request outstanding one is committed, by a sequence that meets the invariant (R220, R223, R224). -/
theorem State.Inv.issueNext (h : s.Inv) (hl : s.sysLive = true) (hw : s.sqAwaiting = false) (dom : BitVec 5) :
    ∃ u dev num cmd pl, Started s u ∧ Machine.issueNext dom s = .next (Machine.commit dev num cmd pl u) ∧
      (Machine.commit dev num cmd pl u).Inv := by
  have hissue : ∀ u, u.Inv → Started s u → ∃ dev num cmd pl,
      issue dom u = .next (Machine.commit dev num cmd pl u) ∧ (Machine.commit dev num cmd pl u).Inv := by
    rintro u hu ⟨c, p1, p2, slot, tail, count, rfl⟩
    obtain ⟨dev, num, pl, hissue, hnum⟩ := hu.issue_commits hl rfl dom
    exact ⟨dev, num, _, pl, hissue, hu.commit rfl hnum dev pl⟩
  cases hs : s.sqSeqComplete with
  | true =>
    obtain ⟨u, hu, huinv⟩ := h.sequenceStart hl hw
    have hstarted := sequenceStart_started hu
    obtain ⟨dev, num, cmd, pl, hnext, hinv⟩ := hissue u huinv hstarted
    exact ⟨u, dev, num, cmd, pl, hstarted, (issueNext_start hs hu).trans hnext, hinv⟩
  | false =>
    have hstarted := Started.refl hs
    obtain ⟨dev, num, cmd, pl, hnext, hinv⟩ := hissue s h hstarted
    exact ⟨s, dev, num, cmd, pl, hstarted, (if_neg (by rw [hs]; exact Bool.false_ne_true)).trans hnext, hinv⟩

theorem State.Inv.execTick {dom : BitVec 5} (h : s.Inv) (ht : Machine.execTick dom s = .next t) : t.Inv := by
  have hparts := watchdog_eq s
  obtain ⟨hl, ⟨hw, ht⟩ | ⟨hw, ht⟩⟩ := execTick_next ht
  · exact h.watchdog.timeoutCheck (by rwa [hparts]) (by rwa [hparts]) ht
  · obtain ⟨u, dev, num, cmd, pl, -, hnext, hinv⟩ := h.watchdog.issueNext (by rwa [hparts]) (by rwa [hparts]) dom
    rw [hnext] at ht
    cases ht
    exact hinv

/-! ## Every step keeps the invariant -/

/-- Every transaction keeps the invariant; a row TX_* by itself need not. -/
theorem State.Inv.exec {i : Instr} (h : s.Inv) (hi : isTransaction i = true) (ht : Machine.exec i s = .next t) : t.Inv := by
  cases i with
  | reset =>
    obtain ⟨⟨hmin, hmax, hdebug⟩, rfl⟩ := execReset_next.1 ht
    exact afterReset_inv h.1 hmin hmax hdebug
  | rxByte b =>
    obtain ⟨hl, hin⟩ := execRxByte_next ht
    exact h.rearm.ingested hl hin
  | tick => exact h.execTick ht
  | enqAef p1 p2 =>
    obtain ⟨-, ht⟩ := whenLive_next.1 ht
    split at ht <;> cases ht
    exact h.enqueue _ _ _
  | setDebug =>
    obtain ⟨-, ht⟩ := whenLive_next.1 ht
    split at ht <;> cases ht
    exact h.setDebug ‹_›
  | enqGv | enqGdt | enqGai =>
    obtain ⟨-, ht⟩ := whenLive_next.1 ht
    cases ht
    exact h.enqueue _ _ _
  | rxIdle =>
    obtain ⟨-, ht⟩ := whenLive_next.1 ht
    cases ht
    exact h.log _
  | lineOpen =>
    obtain ⟨-, ht⟩ := whenLive_next.1 ht
    cases ht
    exact h.atSync rfl _ _
  | _ => cases hi

end

/-- Settles O7: a step is idle or a decoded transaction, and the ports are not in the invariant. -/
theorem stepKeepsInvariant : Obligations.StepKeepsInvariant := by
  intro s t h ht
  obtain ⟨-, rfl⟩ | ⟨x, rest, i, -, hd, ht⟩ := step_next ht
  · exact h
  · exact State.Inv.exec (s := accepted x rest s) h (decodeTxn_isTransaction hd) ht

/-! ## Every legal transaction completes -/

/-- Settles O42: after the watchdog one request is committed, by the sequence in progress or the one just started. -/
theorem tickSendsOneRequest : Obligations.TickSendsOneRequest := by
  intro dom s hinv hl hd hw
  have hparts := watchdog_eq s
  obtain ⟨u, dev, num, cmd, pl, hu, hnext, -⟩ := hinv.watchdog.issueNext (by rwa [hparts]) (by rwa [hparts]) dom
  obtain ⟨c, p1, p2, slot, tail, count, rfl⟩ := hu
  refine ⟨_, dev, num, cmd, pl, (exec_tick_idle hl hd hw).trans hnext, ?_⟩
  rw [hparts]
  simp

/-- A TICK completes: before the deadline, at the deadline, and with no request outstanding (R335). -/
theorem execTick_completes {s : State} (h : s.Inv) (hl : s.sysLive = true) {dom : BitVec 5} (hd : dom ≠ 0#5) :
    Completes (exec (.tick dom) s) := by
  cases hw : s.sqAwaiting with
  | true =>
    rcases Nat.lt_or_ge (s.now - s.sqSendTime).toNat 2000 with hearly | hlate
    · exact ⟨_, tickWaitsForReply dom s hl hd hw hearly⟩
    · exact ⟨_, tickTimesOut dom s h hl hd hw hlate⟩
  | false =>
    obtain ⟨t, _, _, _, _, ht, -⟩ := tickSendsOneRequest dom s h hl hd hw
    exact ⟨t, ht⟩

/-- The assembler handles every byte: the position is within the buffer and the frame (R51 item 8), and the frame it may
complete is dispatched. -/
theorem ingest_completes {s : State} (h : s.Inv) (hl : s.sysLive = true) (b : Byte) : Completes (ingest b s) := by
  obtain ⟨⟨hbuf, -⟩, -, ⟨-, -, hbody⟩, -⟩ := h.2 hl
  rcases Nat.lt_or_ge s.faPos 3 with h3 | h3
  · exact ⟨_, ingest_sync h3⟩
  rcases Nat.lt_or_ge s.faPos s.params.bufSize with hroom | hfull
  case inr => exact ⟨_, ingest_overflow h3 hfull⟩
  rcases Nat.eq_or_lt_of_le h3 with h3 | h4
  · exact ⟨_, ingest_length h3.symm (by omega)⟩
  obtain ⟨-, hlast⟩ := hbody h4
  have hlen : s.faBuf[3]? = some s.faBuf[3] := List.getElem?_eq_getElem (by omega)
  rw [getD_of_getElem? hlen] at hlast
  rcases Nat.lt_or_eq_of_le hlast with hlast | hlast
  · exact ⟨_, ingest_body h4 hroom hlen hlast⟩
  rw [ingest_last hroom hlen hlast, hlast]
  by_cases hsum : bufChecksum s.faBuf[3].toNat s.faBuf = b
  · rw [lastByte_good hsum]
    exact h.dispatch hl _ _ _ _ _ rfl
  · exact ⟨_, lastByte_bad hsum⟩

/-- An instruction that is one update of a live block completes unless the block is not live. -/
theorem completes_of_not_refuses {s t : State} (h : ¬ Refuses (whenLive s (.next t))) :
    Completes (whenLive s (.next t)) := by
  rw [whenLive_refuses, or_iff_right (not_refuses_next t), Bool.not_eq_false] at h
  exact ⟨t, whenLive_of_live h⟩

/-- A transaction that is not refused completes (R335). -/
theorem exec_completes {s : State} (h : s.Inv) {i : Instr} (hi : isTransaction i = true) (hr : ¬ Refuses (exec i s)) :
    Completes (exec i s) := by
  have hlegal := hr
  rw [exec_refuses_iff, not_or, Bool.not_eq_false, not_and, Bool.not_eq_false] at hlegal
  obtain ⟨hwf, hl⟩ := hlegal
  cases i with
  | reset invCount autoAef dbg =>
    simp only [wellFormed, WellFormed.resetFields, Bool.and_eq_true, decide_eq_true_eq, and_assoc] at hwf
    exact ⟨_, execReset_next.2 ⟨hwf, rfl⟩⟩
  | rxByte b =>
    rw [exec_rxByte (hl rfl)]
    exact ingest_completes h.rearm (hl rfl) b
  | tick dom => exact execTick_completes h (hl rfl) (of_decide_eq_true hwf)
  | enqAef p1 p2 =>
    obtain ⟨-, -, -, haef⟩ := exec_enq (hl rfl)
    refine ⟨_, haef p1 p2 fun h2 => ?_⟩
    cases p1 <;> cases p2 <;> simp_all [wellFormed, WellFormed.enqAefFields]
  | setDebug level => exact ⟨_, (setDebugSetsLevel level s (hl rfl) (of_decide_eq_true hwf)).2⟩
  | enqGv | enqGdt | enqGai | rxIdle | lineOpen => exact completes_of_not_refuses hr
  | _ => cases hi

/-- Settles O6: a legal word decodes to a transaction that is not refused (`step_refuses_iff`), so it completes. -/
theorem legalTransactionsComplete : Obligations.LegalTransactionsComplete := by
  intro s t rest hinv hq hlegal
  have hr : ¬ Refuses (step s) := by rwa [step_refuses_iff hq, wordRefused_iff_illegalTxn]
  cases hd : decodeTxn t.op with
  | error e => exact absurd ((step_refuses_iff hq).2 (wordRefused_of_error hd)) hr
  | ok i =>
    rw [stepRunsDecodedTransaction s t rest i hq hd] at hr ⊢
    exact exec_completes (s := accepted t rest s) hinv (decodeTxn_isTransaction hd) hr

end Sys2Proof.Machine
end

section
/-! PROOFS. What a step leaves alone and what it sends: the configuration (spec/10_state.md R48, spec/70_reset_and_hazards.md
R373) and the TX records (R370, spec/43_command_sequencer.md R223). -/

namespace Sys2Proof.Machine

/-! ## The configuration -/

/-- `t` has the parameters, the input port and the configuration of `s`, but perhaps another debug level. -/
structure SameConfig (s t : State) : Prop where
  params : t.params = s.params
  inq : t.inq = s.inq
  now : t.now = s.now
  sysLive : t.sysLive = s.sysLive
  cfgInvCount : t.cfgInvCount = s.cfgInvCount
  cfgAutoAef : t.cfgAutoAef = s.cfgAutoAef

/-- `t` has also the debug level of `s`. -/
structure SameSettings (s t : State) : Prop extends SameConfig s t where
  cfgDebug : t.cfgDebug = s.cfgDebug

section
variable {s t u : State}

theorem SameSettings.trans (h : SameSettings s t) (h' : SameSettings t u) : SameSettings s u where
  params := h'.params.trans h.params
  inq := h'.inq.trans h.inq
  now := h'.now.trans h.now
  sysLive := h'.sysLive.trans h.sysLive
  cfgInvCount := h'.cfgInvCount.trans h.cfgInvCount
  cfgAutoAef := h'.cfgAutoAef.trans h.cfgAutoAef
  cfgDebug := h'.cfgDebug.trans h.cfgDebug

/-- Sequencer work leaves the settings alone. -/
theorem SequencerWork.sameSettings (h : SequencerWork s t) : SameSettings s t where
  params := h.1.params
  inq := h.1.inq
  now := h.1.now
  sysLive := h.1.sysLive
  cfgInvCount := h.1.cfgInvCount
  cfgAutoAef := h.1.cfgAutoAef
  cfgDebug := h.1.cfgDebug

theorem enqueue_sameSettings (k : QKind) (p1 p2 : Option Byte) (s : State) : SameSettings s (enqueue k p1 p2 s) := by
  unfold enqueue
  split <;> exact ⟨⟨rfl, rfl, rfl, rfl, rfl, rfl⟩, rfl⟩

theorem watchdog_sameSettings (s : State) : SameSettings s (watchdog s) := by
  rw [watchdog_eq]
  exact ⟨⟨rfl, rfl, rfl, rfl, rfl, rfl⟩, rfl⟩

theorem Ingested.sameSettings {b : Byte} (h : Ingested b s t) : SameSettings s t := by
  cases h with
  | stored | discarded => exact ⟨⟨rfl, rfl, rfl, rfl, rfl, rfl⟩, rfl⟩
  | completed len _ _ _ _ _ _ h =>
    have hdone : SameSettings s (frameCompleted len.toNat b s) := ⟨⟨rfl, rfl, rfl, rfl, rfl, rfl⟩, rfl⟩
    exact hdone.trans (dispatch_work h).sameSettings

theorem timeoutCheck_work (h : timeoutCheck s = .next t) : SequencerWork s t := by
  unfold timeoutCheck at h
  split at h
  · exact timeout_work h
  · cases h
    exact SequencerWork.refl s

theorem execTick_sameSettings {dom : BitVec 5} (h : execTick dom s = .next t) : SameSettings s t := by
  obtain ⟨-, ⟨-, h⟩ | ⟨-, h⟩⟩ := execTick_next h
  · exact (watchdog_sameSettings s).trans (timeoutCheck_work h).sameSettings
  · obtain ⟨_, dev, num, cmd, pl, ⟨c, p1, p2, slot, tail, count, rfl⟩, rfl⟩ := issueNext_next h
    exact (watchdog_sameSettings s).trans ⟨⟨rfl, rfl, rfl, rfl, rfl, rfl⟩, rfl⟩

end

/-- The settings' frame, transaction by transaction: RESET sets them, SET_DEBUG only the debug level (R48). -/
theorem exec_sameConfig {i : Instr} {s t : State} (hi : isTransaction i = true) (hr : isReset i = false)
    (h : exec i s = .next t) : SameConfig s t ∧ ((∀ l, i ≠ .setDebug l) → t.cfgDebug = s.cfgDebug) := by
  have settled (hs : SameSettings s t) : SameConfig s t ∧ ((∀ l, i ≠ .setDebug l) → t.cfgDebug = s.cfgDebug) :=
    ⟨hs.toSameConfig, fun _ => hs.cfgDebug⟩
  cases i with
  | reset => cases hr
  | rxByte b =>
    obtain ⟨-, hin⟩ := execRxByte_next h
    have hrearm : SameSettings s (rearm s) := ⟨⟨rfl, rfl, rfl, rfl, rfl, rfl⟩, rfl⟩
    exact settled (hrearm.trans hin.sameSettings)
  | tick => exact settled (execTick_sameSettings h)
  | enqAef =>
    obtain ⟨-, h⟩ := whenLive_next.1 h
    split at h <;> cases h
    exact settled (enqueue_sameSettings ..)
  | setDebug level =>
    obtain ⟨-, h⟩ := whenLive_next.1 h
    split at h <;> cases h
    exact ⟨⟨rfl, rfl, rfl, rfl, rfl, rfl⟩, fun hl => absurd rfl (hl level)⟩
  | enqGv | enqGdt | enqGai =>
    obtain ⟨-, h⟩ := whenLive_next.1 h
    cases h
    exact settled (enqueue_sameSettings ..)
  | rxIdle | lineOpen =>
    obtain ⟨-, h⟩ := whenLive_next.1 h
    cases h
    exact settled ⟨⟨rfl, rfl, rfl, rfl, rfl, rfl⟩, rfl⟩
  | _ => cases hi

/-- Settles O11: RESET keeps the parameters and the ports, and `exec_sameConfig` is the frame of every other transaction. -/
theorem onlyControlTransactionsConfigure : Obligations.OnlyControlTransactionsConfigure := by
  intro s t x rest i hq hd ht
  rw [stepRunsDecodedTransaction s x rest i hq hd] at ht
  have hi := decodeTxn_isTransaction hd
  cases hr : isReset i with
  | true =>
    cases i with
    | reset ic a d =>
      obtain ⟨-, rfl⟩ := execReset_next.1 ht
      exact ⟨rfl, rfl, rfl, fun hne => absurd rfl (hne ic a d)⟩
    | _ => cases hr
  | false =>
    obtain ⟨hc, hdebug⟩ := exec_sameConfig hi hr ht
    exact ⟨hc.params, hc.inq, hc.now, fun _ => ⟨hc.sysLive, hc.cfgInvCount, hc.cfgAutoAef, hdebug⟩⟩

/-! ## The requests sent -/

/-- No record is a request. -/
def SendsNothing (recs : List Record) : Prop := ∀ r ∈ recs, r.isTx = false

section
variable {s t : State} {recs : List Record}

theorem Reports.sendsNothing (h : Reports recs) : SendsNothing recs := fun r hr => (h r hr).2

theorem SendsNothing.append {l r : List Record} (h : SendsNothing l) (h' : SendsNothing r) : SendsNothing (l ++ r) :=
  fun x hx => (List.mem_append.1 hx).elim (h x) (h' x)

theorem noDataRecords_sendsNothing (s : State) : SendsNothing (noDataRecords s) := by
  unfold noDataRecords
  split <;> simp [SendsNothing, Record.isTx]

theorem Ingested.sendsNothing {b : Byte} (h : Ingested b s t) (hs : SendsNothing s.outp) : SendsNothing t.outp := by
  obtain ⟨ev, recs, hout, hrecs⟩ := h.outp
  rw [hout]
  refine hs.append ?_
  rintro r (_ | ⟨_, hr⟩)
  · rfl
  · exact hrecs.sendsNothing r hr

theorem enqueue_sendsNothing (hs : SendsNothing s.outp) (k : QKind) (p1 p2 : Option Byte) :
    SendsNothing (enqueue k p1 p2 s).outp := by
  have hresp (r : QResult) : SendsNothing [.qresp r] := by simp [SendsNothing, Record.isTx]
  unfold enqueue
  split
  · exact (hs.append (Reports.log _).sendsNothing).append (hresp .full)
  · exact hs.append (hresp .ok)

/-- Only a TICK sends (R370). -/
theorem exec_sendsNothing {i : Instr} (hi : isTransaction i = true) (htick : ∀ dom, i ≠ .tick dom)
    (hs : SendsNothing s.outp) (h : exec i s = .next t) : SendsNothing t.outp := by
  cases i with
  | reset =>
    obtain ⟨-, rfl⟩ := execReset_next.1 h
    exact hs
  | rxByte b =>
    obtain ⟨-, hin⟩ := execRxByte_next h
    exact hin.sendsNothing hs
  | tick dom => exact absurd rfl (htick dom)
  | enqAef =>
    obtain ⟨-, h⟩ := whenLive_next.1 h
    split at h <;> cases h
    exact enqueue_sendsNothing hs _ _ _
  | setDebug level =>
    obtain ⟨-, h⟩ := whenLive_next.1 h
    split at h <;> cases h
    exact hs
  | enqGv | enqGdt | enqGai =>
    obtain ⟨-, h⟩ := whenLive_next.1 h
    cases h
    exact enqueue_sendsNothing hs _ _ _
  | rxIdle =>
    obtain ⟨-, h⟩ := whenLive_next.1 h
    cases h
    exact hs.append (Reports.log _).sendsNothing
  | lineOpen =>
    obtain ⟨-, h⟩ := whenLive_next.1 h
    cases h
    exact hs
  | _ => cases hi

/-- What a TICK adds to the output: reports while it waits, else NO_DATA if it is due and one request (R220). -/
theorem execTick_outp {dom : BitVec 5} (h : execTick dom s = .next t) :
    (∃ recs, t.outp = s.outp ++ recs ∧ SendsNothing recs) ∨
      (s.sqAwaiting = false ∧ ∃ bytes, t.outp = s.outp ++ noDataRecords s ++ [.tx bytes]) := by
  have hout : (watchdog s).outp = s.outp ++ noDataRecords s := by rw [watchdog_eq]
  obtain ⟨-, ⟨-, h⟩ | ⟨hw, h⟩⟩ := execTick_next h
  · obtain ⟨-, recs, hrecs, hreports⟩ := timeoutCheck_work h
    exact .inl ⟨noDataRecords s ++ recs, by rw [hrecs, hout, List.append_assoc],
      (noDataRecords_sendsNothing s).append hreports.sendsNothing⟩
  · obtain ⟨_, dev, num, cmd, pl, ⟨c, p1, p2, slot, tail, count, rfl⟩, rfl⟩ := issueNext_next h
    exact .inr ⟨hw, frame dev num cmd pl, by rw [commit_outp, hout]⟩

end

/-- Settles O12: the output list is empty at the step's start; no other transaction than TICK puts a request there, and a
TICK puts one where none is outstanding. -/
theorem requestsGoOutOnlyOnTick : Obligations.RequestsGoOutOnlyOnTick := by
  intro s t x rest hq ht hsends
  have hnot : ¬ SendsNothing t.outp := by
    obtain ⟨r, hr, htx⟩ := hsends
    exact fun h => by simp [h r hr] at htx
  obtain ⟨hempty, -⟩ | ⟨y, rest', i, hq', hd, ht⟩ := step_next ht
  · rw [hq] at hempty
    cases hempty
  rw [hq] at hq'
  cases hq'
  have hstart : SendsNothing (accepted x rest s).outp := fun r hr => absurd hr List.not_mem_nil
  by_cases htick : ∃ dom, i = .tick dom
  · obtain ⟨dom, rfl⟩ := htick
    refine ⟨⟨dom, hd⟩, ?_⟩
    obtain ⟨recs, hout, hrecs⟩ | ⟨hw, bytes, hout⟩ := execTick_outp ht
    · rw [hout] at hnot
      exact absurd (hstart.append hrecs) hnot
    · refine ⟨hw, ?_⟩
      have hfilter : (noDataRecords (accepted x rest s)).filter Record.isTx = [] :=
        List.filter_eq_nil_iff.2 fun r hr => by simp [noDataRecords_sendsNothing _ r hr]
      rw [hout, List.filter_append, List.filter_append, hfilter]
      rfl
  · exact absurd (exec_sendsNothing (decodeTxn_isTransaction hd) (fun dom h => htick ⟨dom, h⟩) hstart ht) hnot

end Sys2Proof.Machine
end

section
/-! PROOFS. The filter's counter (spec/42_sanity_filter.md R204), the value replies (spec/43_command_sequencer.md R257, R259,
R280 to R288) and the error frames (R251, R252). -/

namespace Sys2Proof.Machine

/-! ## The filter's counter -/

/-- FILTER takes the candidate and clears the counter. -/
def Takes (x : FilterArgs) : Prop := (filterValue x).counter = 0#2 ∧ (filterValue x).value = x.cand

/-- FILTER counts the candidate, from at most two rejections. -/
def Counts (x : FilterArgs) : Prop := x.cnt.toNat ≤ 2 ∧ (filterValue x).counter.toNat = x.cnt.toNat + 1

/-- Each rule of FILTER either takes the candidate or counts it (R190 to R203). -/
theorem takes_or_counts (x : FilterArgs) : Takes x ∨ Counts x := by
  rcases Nat.lt_or_ge 2 x.cnt.toNat with hcnt | hcnt
  · rw [Takes, filterValue_override hcnt]
    exact .inl ⟨rfl, rfl⟩
  have hup := rejections_succ_toNat hcnt
  rw [Takes, Counts, filterValue_slot hcnt]
  rcases Nat.lt_or_ge x.idx 9 with hidx | hidx
  · by_cases h5 : x.idx = 5
    · rw [filtSlot_acVoltage h5]
      by_cases hb : Brownout x
      · rw [filt5_brownout hb]
        exact .inr ⟨hcnt, hup⟩
      rcases Nat.lt_or_ge 550000 x.cand.toNat with habove | hwithin
      · rw [filt5_above hb habove]
        exact .inr ⟨hcnt, hup⟩
      · rw [filt5_within hb hwithin]
        exact .inl ⟨rfl, rfl⟩
    · rw [filtSlot_eq_ite_aboveBound hidx h5]
      split
      · exact .inr ⟨hcnt, hup⟩
      · exact .inl ⟨rfl, rfl⟩
  · rw [filtSlot_badIndex hidx]
    exact .inr ⟨hcnt, hup⟩

/-- Settles O39: three calls that do not take their candidates bring the counter to 3, where the fourth cannot count. -/
theorem filterCounterMakesProgress : Obligations.FilterCounterMakesProgress := by
  intro x c2 c3 c4 d2 d3 d4 next takes x2 x3 x4
  refine ⟨takes_or_counts x, ?_⟩
  rcases takes_or_counts x with h1 | ⟨-, h1⟩
  · exact .inl h1
  rcases takes_or_counts x2 with h2 | ⟨-, h2⟩
  · exact .inr (.inl h2)
  rcases takes_or_counts x3 with h3 | ⟨-, h3⟩
  · exact .inr (.inr (.inl h3))
  rcases takes_or_counts x4 with h4 | ⟨h4, -⟩
  · exact .inr (.inr (.inr h4))
  have e2 : x2.cnt.toNat = x.cnt.toNat + 1 := h1
  have e3 : x3.cnt.toNat = x2.cnt.toNat + 1 := h2
  have e4 : x4.cnt.toNat = x3.cnt.toNat + 1 := h3
  omega

/-! ## Error frames -/

section
variable {dev num : Byte} {pl : List Byte} {s : State}

theorem exec_rxProtocolError (hl : s.sysLive = true) (hpl : WellFormed.inboundPayload s.params pl = true) :
    exec (.rxProtocolError dev num pl) s = errorResponse num (log (.protocolError dev num pl) s) :=
  (receive_eq_dispatch hl hpl).trans (dispatch_protocolError rfl)

theorem exec_rxErrorState (hp : s.params.Wf) (hl : s.sysLive = true)
    (hpl : WellFormed.inboundPayload s.params pl = true) :
    exec (.rxErrorState dev num pl) s = errorResponse num (log (.errorState dev num pl) s) := by
  obtain ⟨-, -, -, -, hne⟩ := hp.not_error
  exact (receive_eq_dispatch hl hpl).trans (dispatch_errorState hne rfl)

theorem answersRequest_iff : answersRequest num s = true ↔ s.sqAwaiting = true ∧ num = s.sqOutNum := by
  simp [answersRequest]

/-- An error frame that answers nothing ends no exchange (R251). -/
theorem errorResponse_unrelated (h : ¬ (s.sqAwaiting = true ∧ num = s.sqOutNum)) : errorResponse num s = .next s :=
  if_neg (mt answersRequest_iff.1 h)

/-- One that answers the outstanding request ends its exchange as a failure (R251, R270). -/
theorem errorResponse_answer (hw : s.sqAwaiting = true) (hnum : num = s.sqOutNum) :
    errorResponse num s = stepDone false (clearAwaiting s) :=
  if_pos (answersRequest_iff.2 ⟨hw, hnum⟩)

/-- The failure of an exchange behind one log record. -/
theorem State.Inv.stepDone_logged (h : s.Inv) (hl : s.sysLive = true) (hw : s.sqAwaiting = true) (e : Event) :
    Machine.stepDone false (Machine.clearAwaiting (Machine.log e s)) = .next (failedExchange [logRecord e] s) :=
  h.stepDone_failed hl (h.sqSeqComplete_of_awaiting hl hw) [logRecord e]

end

/-- Settles O59: the dispatch of an error frame logs it, and nothing more without a request that it answers. -/
theorem unrelatedErrorFramesAreLogged : Obligations.UnrelatedErrorFramesAreLogged := by
  intro dev num pl s hp hl hwf hna
  rw [exec_rxProtocolError hl hwf, exec_rxErrorState hp hl hwf]
  exact ⟨errorResponse_unrelated (s := log _ s) hna, errorResponse_unrelated (s := log _ s) hna⟩

/-- Settles O60: the record comes first, then the exchange ends in failure. -/
theorem errorResponsesEndExchange : Obligations.ErrorResponsesEndExchange := by
  intro dev num pl s hinv hl hwf hw hnum
  rw [exec_rxProtocolError hl hwf, exec_rxErrorState hinv.1 hl hwf, errorResponse_answer (s := log _ s) hw hnum,
    errorResponse_answer (s := log _ s) hw hnum]
  exact ⟨hinv.stepDone_logged hl hw _, hinv.stepDone_logged hl hw _⟩

/-! ## Value replies -/

theorem wellFormed_rxVal {p : Params} {k : Nat} {dev num : Byte} {pl : List Byte} (hk : k < 9)
    (h : wellFormed p (rxValInstr k dev num pl) = true) : WellFormed.inboundPayload p pl = true := by
  have : k = 0 ∨ k = 1 ∨ k = 2 ∨ k = 3 ∨ k = 4 ∨ k = 5 ∨ k = 6 ∨ k = 7 ∨ k = 8 := by omega
  rcases this with rfl | rfl | rfl | rfl | rfl | rfl | rfl | rfl | rfl <;> exact h

section
variable {k : Nat} {dev num : Byte} {pl : List Byte} {s : State}

/-- A value reply that answers the outstanding request of a sweep is handled at the sweep's slot (R257). -/
theorem State.Inv.exec_rxVal_answer (h : s.Inv) (hl : s.sysLive = true)
    (hwf : wellFormed s.params (rxValInstr k dev num pl) = true) (ha : Answers s num (s.params.cmdVal k))
    (hc : s.sqCur = .gval) (hslot : s.sqValIdx = k) (hk : k < 9) :
    Machine.exec (rxValInstr k dev num pl) s = valueReply k num (s.params.cmdVal k) pl s := by
  obtain ⟨-, -, -, -, hperr, hestate⟩ := h.1.cmdVal_ne hk
  rw [exec_rxVal k hk, receive_answer hl (wellFormed_rxVal hk hwf) ⟨hperr, hestate⟩ ha]
  simp only [Machine.matchedReply, hc, hslot]
  exact if_pos hk

theorem valueReply_malformed {cmd : Byte} (h : pl.length ≠ 3) :
    valueReply k num cmd pl s = malformed cmd pl (clearAwaiting s) := by
  unfold valueReply
  split
  · exact absurd rfl h
  · rfl

end

/-- Settles O56: a payload of another length is a failed exchange behind its record. -/
theorem malformedValueReplySkipsSlot : Obligations.MalformedValueReplySkipsSlot := by
  intro k dev num pl s hinv hl hwf hlen ha hc hslot
  have ⟨hw, _⟩ := ha
  obtain ⟨hk, -⟩ := hinv.sweepPosition hl hc (hinv.sqSeqComplete_of_awaiting hl hw)
  rw [hinv.exec_rxVal_answer hl hwf ha hc hslot (hslot ▸ hk), valueReply_malformed hlen]
  exact hinv.stepDone_logged hl hw _

theorem logOpt_eq (e : Option Event) (s : State) :
    logOpt e s = { s with outp := s.outp ++ e.toList.map logRecord } := by
  cases e with
  | none => simp [logOpt]
  | some e => rfl

/-- The inverter that an outstanding GetValues request went to is the one under the cursor, and the table has it (R233, R51
item 4). -/
theorem State.Inv.awaitedInverter {s : State} (h : s.Inv) (hl : s.sysLive = true) (hw : s.sqAwaiting = true)
    (hc : s.sqCur = .gval) :
    Machine.valTarget s = some s.sqOutNum ∧ 1 ≤ s.sqOutNum.toNat ∧ s.sqOutNum.toNat ≤ s.params.maxInv := by
  obtain ⟨-, hn⟩ := h.sweepPosition hl hc (h.sqSeqComplete_of_awaiting hl hw)
  obtain ⟨-, -, -, -, ⟨-, -, -, -, -, htarget⟩, -⟩ := h.2 hl
  obtain ⟨hcursor, hmin, hmax, -⟩ := h.valTarget hl hn
  have hnum : s.sqActive.getD s.sqInvCursor 0#8 = s.sqOutNum := Option.some.inj (hcursor.symm.trans (htarget hw hc))
  rw [hnum] at hcursor hmin hmax
  exact ⟨hcursor, hmin, hmax⟩

/-- The end of an exchange of a sweep at slot `k`, the last slot or not (R271). -/
theorem stepDone_sweep {ok : Bool} {k : Nat} {a : Byte} {values : List (BitVec 64)} {s : State} (hc : s.sqCur = .gval)
    (hslot : s.sqValIdx = k) (hs : s.sqSeqComplete = false) (ht : valTarget s = some a)
    (hv : valRow s a = some values) (hn : 0 < s.sqNActive) :
    stepDone ok s =
      .next { s with
        sqValIdx := k + 1, sqSeqComplete := decide (k = 8), sqIdleNext := if k = 8 then .gai else s.sqIdleNext,
        sqInvCursor := if k = 8 then (s.sqInvCursor + 1) % s.sqNActive else s.sqInvCursor,
        outp := s.outp ++ if k = 8 then [.report a values] else [] } := by
  by_cases h8 : k = 8
  · subst h8
    exact stepDone_lastSlot hc hslot ht hv hn
  · rw [stepDone_nextSlot hc (hslot ▸ h8), hslot]
    simp [h8, hs]

/-- Decode, filter and store: the state in which the exchange of a value reply ends (R257). -/
theorem storeValue_eq {k : Nat} {num hi lo eb : Byte} {prev dcv : BitVec 64} {cnt : BitVec 2} {s : State}
    (hprev : valAt s num k = some prev) (hcnt : rejAt s num k = some cnt) (hdcv : valAt s num 8 = some dcv) :
    let d := decodeValue s.params s.cfgDebug hi lo eb k
    let f := filterValue (FilterArgs.mk num k d.value prev cnt dcv)
    storeValue k num hi lo eb s =
      stepDone true
        (storeEntry num k f.value f.counter
          { s with outp := s.outp ++ d.diag.toList.map logRecord ++ f.diag.toList.map logRecord }) := by
  simp only [storeValue, hprev, hcnt, hdcv, logOpt_eq]

theorem valRow_congr {s t : State} (h : t.mtVal = s.mtVal) (a : Byte) : valRow t a = valRow s a := by
  rw [valRow, valRow, h]

theorem valAt_congr {s t : State} (h : t.mtVal = s.mtVal) (a : Byte) (j : Nat) : valAt t a j = valAt s a j := by
  rw [valAt, valAt, valRow_congr h]

theorem rejAt_congr {s t : State} (h : t.mtRej = s.mtRej) (a : Byte) (j : Nat) : rejAt t a j = rejAt s a j := by
  rw [rejAt, rejAt, rejRow, rejRow, h]

/-- The end of a value reply's exchange, its result stored and its diagnostics in `out`; the REPORT after slot 8 has the
values stored (R271). -/
theorem State.Inv.stepDone_stored {k : Nat} {s : State} (h : s.Inv) (hl : s.sysLive = true) (hw : s.sqAwaiting = true)
    (hc : s.sqCur = .gval) (hslot : s.sqValIdx = k) (v : BitVec 64) (c : BitVec 2) (out : List Record) :
    ∃ t, Machine.stepDone true
          (Machine.storeEntry s.sqOutNum k v c { Machine.clearAwaiting s with outp := out }) = .next t ∧
      t.mtVal = (Machine.storeEntry s.sqOutNum k v c s).mtVal ∧ t.mtRej = (Machine.storeEntry s.sqOutNum k v c s).mtRej ∧
      t = { s with
        mtVal := t.mtVal, mtRej := t.mtRej, sqAwaiting := false, sqValIdx := k + 1, sqSeqComplete := decide (k = 8),
        sqIdleNext := if k = 8 then .gai else s.sqIdleNext,
        sqInvCursor := if k = 8 then (s.sqInvCursor + 1) % s.sqNActive else s.sqInvCursor,
        outp := out ++ if k = 8 then [reportOf t s.sqOutNum] else [] } := by
  have hs := h.sqSeqComplete_of_awaiting hl hw
  obtain ⟨-, hn⟩ := h.sweepPosition hl hc hs
  obtain ⟨htarget, hmin, hmax⟩ := h.awaitedInverter hl hw hc
  obtain ⟨harrays, -⟩ := h.2 hl
  obtain ⟨values, hvalues, -⟩ := valRow_isSome (storeEntry_arraysWf (k := k) (v := v) (c := c) harrays) hmin hmax
  have hrow : valRow (Machine.storeEntry s.sqOutNum k v c s) s.sqOutNum =
      some ((valRow (Machine.storeEntry s.sqOutNum k v c s) s.sqOutNum).getD []) := by
    rw [hvalues]
    rfl
  exact ⟨_, stepDone_sweep (s := Machine.storeEntry s.sqOutNum k v c { Machine.clearAwaiting s with outp := out })
    hc hslot hs htarget hrow hn, rfl, rfl, rfl⟩

/-- Settles O55: the request went to an inverter that the table has, so its entry is read, judged and stored; then the
exchange ends at its slot. -/
theorem valueReplyStoresFilteredValue : Obligations.ValueReplyStoresFilteredValue := by
  intro k dev num hi lo eb s hinv hl hwf ha hc hslot
  have ⟨hw, _, hnum⟩ := ha
  subst hnum
  obtain ⟨hk, -⟩ := hinv.sweepPosition hl hc (hinv.sqSeqComplete_of_awaiting hl hw)
  rw [hslot] at hk
  obtain ⟨-, hmin, hmax⟩ := hinv.awaitedInverter hl hw hc
  obtain ⟨harrays, -⟩ := hinv.2 hl
  have hnum : s.sqOutNum ≠ 0#8 := fun h0 => absurd hmin (by rw [h0]; decide)
  obtain ⟨prev, hprev⟩ := valAt_isSome harrays hmin hmax hk
  obtain ⟨cnt, hcnt⟩ := rejAt_isSome harrays hmin hmax hk
  obtain ⟨dcv, hdcv⟩ := valAt_isSome harrays hmin hmax (k := 8) (by decide)
  obtain ⟨t, hdone, hval, hrej, ht⟩ := hinv.stepDone_stored hl hw hc hslot _ _ _
  refine ⟨prev, cnt, dcv, t, hprev, hcnt, hdcv, ?exec, ?value, ?counter, ?others, ht⟩
  case exec =>
    rw [hinv.exec_rxVal_answer hl hwf ha hc hslot hk]
    exact (storeValue_eq (s := clearAwaiting s) hprev hcnt hdcv).trans hdone
  case value => exact (valAt_congr hval ..).trans (valAt_storeEntry_same (by rw [hprev]; rfl))
  case counter => exact (rejAt_congr hrej ..).trans (rejAt_storeEntry_same (by rw [hcnt]; rfl))
  case others =>
    intro a j hne
    exact ⟨(valAt_congr hval ..).trans (valAt_storeEntry_ne hnum hne),
      (rejAt_congr hrej ..).trans (rejAt_storeEntry_ne hnum hne)⟩

end Sys2Proof.Machine
end
